-- ==== Sys2Proof/Word.lean ====
section
/-! DEFINITION. The value types of the machine (spec/00_scope.md R8, R10, R14). `Time` (R14), an exact quantity of seconds,
is a `Nat` counted in units of `1 / unitsPerSecond` second (`Settings.unitsPerSecond`), a unit in which the three intervals
of R6 are whole numbers. DESIGN CHOICE, notes/assumptions/4.md. -/

namespace Sys2Proof

/-- `u8`: a general register, a memory byte, a timer (R10). -/
abbrev Byte := BitVec 8

/-- `u16`: an instruction word, `pc`, `I`, a call-stack slot (R10). -/
abbrev Word := BitVec 16

end Sys2Proof
end

