-- ==== Sys2Proof/Config.lean ====
section
/-! DEFINITION. The configuration (spec/00_scope.md R6, R7) and the one free value (R174). Every parameter of R6 is
a field: those with one value, fixed in the machine, are the fields of `Parameters`, from which the types and the
rules take them through the names of R6 below; the three rates (C11), and what R6 leaves open, are the fields of
`Settings`, which the state carries as plain data, so that a statement about every state holds for every setting. -/

namespace Sys2Proof

/-! ### The fixed parameters of R6 -/

/-- The configuration fields of R6 whose kind is "fixed". -/
structure Parameters where
  /-- `MEM_SIZE`: the Memory Image has addresses 0 to `memSize - 1` -/
  memSize : Nat
  /-- `LOAD_ADDR` (R70): where a program is loaded and where the first fetch happens -/
  loadAddr : Nat
  /-- `FONT_BASE`: where the font stands in memory -/
  fontBase : Nat
  /-- `FONT_LEN`: bytes of the font -/
  fontLen : Nat
  /-- `GLYPH_LEN`: bytes of one font glyph -/
  glyphLen : Nat
  /-- `NREGS`: general registers -/
  nregs : Nat
  /-- `STACK_DEPTH`: entries of the call stack -/
  stackDepth : Nat
  /-- `NKEYS`: keys of the input matrix -/
  nkeys : Nat
  /-- `DISP_W`: columns of the display -/
  dispW : Nat
  /-- `DISP_H`: rows of the display -/
  dispH : Nat
  /-- the one legal value of `TIMER_HZ`, per second (C11) -/
  timerHz : Nat
  deriving DecidableEq, Repr

/-- `ROM_MAX` (R6, derived): the longest program `load` takes. -/
@[simp] abbrev Parameters.romMax (p : Parameters) : Nat := p.memSize - p.loadAddr

/-- The values R6 gives. -/
@[simp] abbrev Config.parameters : Parameters where
  memSize := 4096
  loadAddr := 0x200
  fontBase := 0x50
  fontLen := 80
  glyphLen := 5
  nregs := 16
  stackDepth := 16
  nkeys := 16
  dispW := 64
  dispH := 32
  timerHz := 60

/-- `MEM_SIZE` (R6). -/
@[simp] abbrev Config.memSize : Nat := Config.parameters.memSize
/-- `LOAD_ADDR` (R6). -/
@[simp] abbrev Config.loadAddr : Nat := Config.parameters.loadAddr
/-- `ROM_MAX` (R6). -/
@[simp] abbrev Config.romMax : Nat := Config.parameters.romMax
/-- `FONT_BASE` (R6). -/
@[simp] abbrev Config.fontBase : Nat := Config.parameters.fontBase
/-- `FONT_LEN` (R6). -/
@[simp] abbrev Config.fontLen : Nat := Config.parameters.fontLen
/-- `GLYPH_LEN` (R6). -/
@[simp] abbrev Config.glyphLen : Nat := Config.parameters.glyphLen
/-- `NREGS` (R6). -/
@[simp] abbrev Config.nregs : Nat := Config.parameters.nregs
/-- `STACK_DEPTH` (R6). -/
@[simp] abbrev Config.stackDepth : Nat := Config.parameters.stackDepth
/-- `NKEYS` (R6). -/
@[simp] abbrev Config.nkeys : Nat := Config.parameters.nkeys
/-- `DISP_W` (R6). -/
@[simp] abbrev Config.dispW : Nat := Config.parameters.dispW
/-- `DISP_H` (R6). -/
@[simp] abbrev Config.dispH : Nat := Config.parameters.dispH
/-- The one legal value of `TIMER_HZ`, per second (R6, C11). -/
@[simp] abbrev Config.timerHz : Nat := Config.parameters.timerHz

/-! ### The types whose size is a parameter -/

/-- The number of a general register, 0 to 15 (R20: a 4-bit field, so no index can be out of range). -/
abbrev Reg := Fin Config.nregs

/-- One row of the display, column 0 first (R36, R37). -/
abbrev DisplayRow := Vector Bool Config.dispW

/-- The Display Buffer, row 0 first (R36, R37). A lit cell (1) is `true`. -/
abbrev Display := Vector DisplayRow Config.dispH

/-! ### The free value -/

/-- The random byte of the `n`-th execution of `CXKK` (R174: "a value in 0..255 supplied from outside the
state at each execution", with no generator, seed or distribution). FREE VALUE: it has no body, so nothing
can be proved of it; notes/assumptions/1.md. -/
opaque Config.randomByte : Nat → Byte

/-- A positive rational rate of `num / den` per second (R273: "A rate must be a positive number"). -/
structure Rate where
  num : Nat
  den : Nat
  deriving DecidableEq, Repr

/-- The legal rates: both parts positive. -/
abbrev Rate.positive (r : Rate) : Prop := 0 < r.num ∧ 0 < r.den

/-! ### The settings -/

/-- The configuration fields of R6 that are not fixed: the three rates, and what is left open. -/
structure Settings where
  /-- `INSTR_HZ`, adjustable before the loop starts (R6, R273). -/
  instrHz : Rate
  /-- `TIMER_HZ` (R6, R273): a field like the other two (C11), with one legal value. -/
  timerHz : Rate
  /-- `RENDER_HZ`, adjustable before the loop starts (R6, R273). -/
  renderHz : Rate
  /-- How finely the clock is read: units of `Time` per unit that the three intervals need.
  The model's own (DESIGN CHOICE, notes/assumptions/4.md). -/
  resolution : Nat
  /-- `TIMER_PER_CYCLE` (R6, R126): false in the normative machine. -/
  timerPerCycle : Bool
  /-- `FONT_TABLE` (R7): glyph `k` is bytes `5k` to `5k + 4`. -/
  fontTable : Vector Byte Config.fontLen
  deriving DecidableEq, Repr

/-- The settings R6 and R273 allow: positive rates, `TIMER_HZ` at its one legal value (C11), and a clock that has a
unit. -/
abbrev Settings.legal (c : Settings) : Prop :=
  c.instrHz.positive ∧ c.renderHz.positive ∧ c.timerHz = ⟨Config.timerHz, 1⟩ ∧ 0 < c.resolution

/-- How many units of `Time` make one second. -/
def Settings.unitsPerSecond (c : Settings) : Nat :=
  c.resolution * (c.timerHz.num * (c.instrHz.num * c.renderHz.num))

/-- `instruction_interval = 1 s / INSTR_HZ` (R6, R251), exact. -/
def Settings.instrInterval (c : Settings) : Nat :=
  c.resolution * (c.timerHz.num * (c.instrHz.den * c.renderHz.num))

/-- `render_interval = 1 s / RENDER_HZ` (R6, R251), exact. -/
def Settings.renderInterval (c : Settings) : Nat :=
  c.resolution * (c.timerHz.num * (c.instrHz.num * c.renderHz.den))

/-- `timer_interval = 1 s / TIMER_HZ` (R6, R251), exact. -/
def Settings.timerInterval (c : Settings) : Nat :=
  c.resolution * (c.timerHz.den * (c.instrHz.num * c.renderHz.num))

/-- The default `FONT_TABLE` of R7. PRESUMED: the spec takes these bytes from general knowledge (G1), the
source lists none; notes/assumptions/2.md. -/
def Config.standardFont : Vector Byte Config.fontLen :=
  #v[0xF0, 0x90, 0x90, 0x90, 0xF0,  0x20, 0x60, 0x20, 0x20, 0x70,
     0xF0, 0x10, 0xF0, 0x80, 0xF0,  0xF0, 0x10, 0xF0, 0x10, 0xF0,
     0x90, 0x90, 0xF0, 0x10, 0x10,  0xF0, 0x80, 0xF0, 0x10, 0xF0,
     0xF0, 0x80, 0xF0, 0x90, 0xF0,  0xF0, 0x10, 0x20, 0x40, 0x40,
     0xF0, 0x90, 0xF0, 0x90, 0xF0,  0xF0, 0x90, 0xF0, 0x10, 0xF0,
     0xF0, 0x90, 0xF0, 0x90, 0x90,  0xE0, 0x90, 0xE0, 0x90, 0xE0,
     0xF0, 0x80, 0x80, 0x80, 0xF0,  0xE0, 0x90, 0x90, 0x90, 0xE0,
     0xF0, 0x80, 0xF0, 0x80, 0xF0,  0xF0, 0x80, 0xF0, 0x80, 0x80]

/-- The settings with the default values of R6 and R7: 700, 60 and 120 per second, `TIMER_PER_CYCLE`
false. -/
def Settings.default : Settings where
  instrHz := ⟨700, 1⟩
  timerHz := ⟨Config.timerHz, 1⟩
  renderHz := ⟨120, 1⟩
  resolution := 1
  timerPerCycle := false
  fontTable := Config.standardFont

end Sys2Proof
end

