-- ==== Sys2Proof/Syntax.lean ====
section
/-! DEFINITION. The instructions: one constructor per row of spec/opcode_table.json, in the table's order
(spec/30_encoding.md R95). The operand types are the fields of R91: a register number (`X`, `Y`), an 8-bit
immediate (`KK`), a 12-bit address (`NNN`), a row count (`N`). -/

namespace Sys2Proof

/-- The 34 instructions of R95. -/
inductive Instr where
  /-- `00E0` CLS, R212 -/
  | cls
  /-- `00EE` RET, R141 -/
  | ret
  /-- `1NNN` JP_NNN, R142 -/
  | jp (nnn : BitVec 12)
  /-- `2NNN` CALL_NNN, R143 -/
  | call (nnn : BitVec 12)
  /-- `3XKK` SE_VX_KK, R145 -/
  | seImm (x : Reg) (kk : Byte)
  /-- `4XKK` SNE_VX_KK, R146 -/
  | sneImm (x : Reg) (kk : Byte)
  /-- `5XY0` SE_VX_VY, R147 -/
  | seReg (x y : Reg)
  /-- `6XKK` LD_VX_KK, R162 -/
  | ldImm (x : Reg) (kk : Byte)
  /-- `7XKK` ADD_VX_KK, R163 -/
  | addImm (x : Reg) (kk : Byte)
  /-- `8XY0` LD_VX_VY, R164 -/
  | ldReg (x y : Reg)
  /-- `8XY1` OR_VX_VY, R165 -/
  | orReg (x y : Reg)
  /-- `8XY2` AND_VX_VY, R166 -/
  | andReg (x y : Reg)
  /-- `8XY3` XOR_VX_VY, R167 -/
  | xorReg (x y : Reg)
  /-- `8XY4` ADD_VX_VY, R168 -/
  | addReg (x y : Reg)
  /-- `8XY5` SUB_VX_VY, R169 -/
  | subReg (x y : Reg)
  /-- `8XY6` SHR_VX, R170; the field `y` is ignored (R100) -/
  | shr (x y : Reg)
  /-- `8XY7` SUBN_VX_VY, R171 -/
  | subnReg (x y : Reg)
  /-- `8XYE` SHL_VX, R172; the field `y` is ignored (R100) -/
  | shl (x y : Reg)
  /-- `9XY0` SNE_VX_VY, R148 -/
  | sneReg (x y : Reg)
  /-- `ANNN` LD_I_NNN, R191 -/
  | ldI (nnn : BitVec 12)
  /-- `BNNN` JP_V0_NNN, R144 -/
  | jpV0 (nnn : BitVec 12)
  /-- `CXKK` RND_VX_KK, R173 -/
  | rnd (x : Reg) (kk : Byte)
  /-- `DXYN` DRW_VX_VY_N, R213; `n` is a count of rows, 0 to 15 in a well-formed instruction -/
  | drw (x y : Reg) (n : Nat)
  /-- `EX9E` SKP_VX, R231 -/
  | skp (x : Reg)
  /-- `EXA1` SKNP_VX, R232 -/
  | sknp (x : Reg)
  /-- `FX07` LD_VX_DT, R235 -/
  | ldVxDt (x : Reg)
  /-- `FX0A` LD_VX_K, R234 -/
  | ldVxK (x : Reg)
  /-- `FX15` LD_DT_VX, R236 -/
  | ldDtVx (x : Reg)
  /-- `FX18` LD_ST_VX, R237 -/
  | ldStVx (x : Reg)
  /-- `FX1E` ADD_I_VX, R192 -/
  | addI (x : Reg)
  /-- `FX29` LD_F_VX, R193 -/
  | ldF (x : Reg)
  /-- `FX33` LD_B_VX, R194 -/
  | ldB (x : Reg)
  /-- `FX55` LD_MI_VX, R195 -/
  | storeRegs (x : Reg)
  /-- `FX65` LD_VX_MI, R196 -/
  | loadRegs (x : Reg)
  deriving DecidableEq, Repr

end Sys2Proof
end

