-- ==== Sys2Proof/Decode.lean ====
section
/-! DEFINITION. The decoder and the encoder (spec/30_encoding.md). The decoder follows the map by top nibble
of R97; `opcodeRows` is the match and mask table of R95, written out beside it, so that the two can be held
against each other (R96). -/

namespace Sys2Proof

/-- Why bytes are no instruction. -/
inductive DecodeError where
  /-- the word matches no row of R95 (R98) -/
  | illegalOpcode (w : Word)
  /-- fewer than the two bytes an instruction has (R90) -/
  | truncated
  deriving DecidableEq, Repr

/-! ### Fields of the instruction word (R9, R91) -/

/-- `OP = w[15:12]`. -/
def fieldOP (w : Word) : BitVec 4 := w.extractLsb' 12 4

/-- The register a 4-bit field names: every value of the field is one (R20), as `NREGS` is 16. -/
def regOfField (f : BitVec 4) : Reg := Fin.ofNat Config.nregs f.toNat

/-- The 4-bit field that names a register. -/
def fieldOfReg (r : Reg) : BitVec 4 := BitVec.ofNat 4 r.val

/-- `X = w[11:8]`. -/
def fieldX (w : Word) : Reg := regOfField (w.extractLsb' 8 4)

/-- `Y = w[7:4]`. -/
def fieldY (w : Word) : Reg := regOfField (w.extractLsb' 4 4)

/-- `N = w[3:0]`. -/
def fieldN (w : Word) : BitVec 4 := w.extractLsb' 0 4

/-- `KK = w[7:0]`. -/
def fieldKK (w : Word) : Byte := w.extractLsb' 0 8

/-- `NNN = w[11:0]`. -/
def fieldNNN (w : Word) : BitVec 12 := w.extractLsb' 0 12

/-! ### The decoder -/

/-- The family `OP = 8`, selected by `N` (R97). -/
def decodeAlu (w : Word) : Except DecodeError Instr :=
  match (fieldN w).toNat with
  | 0x0 => .ok (.ldReg (fieldX w) (fieldY w))
  | 0x1 => .ok (.orReg (fieldX w) (fieldY w))
  | 0x2 => .ok (.andReg (fieldX w) (fieldY w))
  | 0x3 => .ok (.xorReg (fieldX w) (fieldY w))
  | 0x4 => .ok (.addReg (fieldX w) (fieldY w))
  | 0x5 => .ok (.subReg (fieldX w) (fieldY w))
  | 0x6 => .ok (.shr (fieldX w) (fieldY w))
  | 0x7 => .ok (.subnReg (fieldX w) (fieldY w))
  | 0xE => .ok (.shl (fieldX w) (fieldY w))
  | _ => .error (.illegalOpcode w)

/-- The family `OP = F`, selected by `KK` (R97). -/
def decodeMisc (w : Word) : Except DecodeError Instr :=
  match (fieldKK w).toNat with
  | 0x07 => .ok (.ldVxDt (fieldX w))
  | 0x0A => .ok (.ldVxK (fieldX w))
  | 0x15 => .ok (.ldDtVx (fieldX w))
  | 0x18 => .ok (.ldStVx (fieldX w))
  | 0x1E => .ok (.addI (fieldX w))
  | 0x29 => .ok (.ldF (fieldX w))
  | 0x33 => .ok (.ldB (fieldX w))
  | 0x55 => .ok (.storeRegs (fieldX w))
  | 0x65 => .ok (.loadRegs (fieldX w))
  | _ => .error (.illegalOpcode w)

/-- Decoding a word: a function of the word alone (R93, R124), by the map of R97. -/
def decodeWord (w : Word) : Except DecodeError Instr :=
  match (fieldOP w).toNat with
  | 0x0 => if w = 0x00E0 then .ok .cls else if w = 0x00EE then .ok .ret else .error (.illegalOpcode w)
  | 0x1 => .ok (.jp (fieldNNN w))
  | 0x2 => .ok (.call (fieldNNN w))
  | 0x3 => .ok (.seImm (fieldX w) (fieldKK w))
  | 0x4 => .ok (.sneImm (fieldX w) (fieldKK w))
  | 0x5 => if fieldN w = 0 then .ok (.seReg (fieldX w) (fieldY w)) else .error (.illegalOpcode w)
  | 0x6 => .ok (.ldImm (fieldX w) (fieldKK w))
  | 0x7 => .ok (.addImm (fieldX w) (fieldKK w))
  | 0x8 => decodeAlu w
  | 0x9 => if fieldN w = 0 then .ok (.sneReg (fieldX w) (fieldY w)) else .error (.illegalOpcode w)
  | 0xA => .ok (.ldI (fieldNNN w))
  | 0xB => .ok (.jpV0 (fieldNNN w))
  | 0xC => .ok (.rnd (fieldX w) (fieldKK w))
  | 0xD => .ok (.drw (fieldX w) (fieldY w) (fieldN w).toNat)
  | 0xE =>
    if fieldKK w = 0x9E then .ok (.skp (fieldX w))
    else if fieldKK w = 0xA1 then .ok (.sknp (fieldX w))
    else .error (.illegalOpcode w)
  | _ => decodeMisc w

/-- The word two bytes in memory make, the first in the high half (R63, R66: `mem[a] ++ mem[a + 1]`). -/
def wordOfBytes (hi lo : Byte) : Word := hi ++ lo

/-- The byte at the lower address of a word laid out in memory (R63). -/
def highByte (w : Word) : Byte := w.extractLsb' 8 8

/-- The byte at the higher address of a word laid out in memory (R63). -/
def lowByte (w : Word) : Byte := w.extractLsb' 0 8

/-- Decoding bytes: the first instruction and what follows it. Every instruction has two bytes (R90, R101). -/
def decode : List Byte → Except DecodeError (Instr × List Byte)
  | hi :: lo :: rest =>
    match decodeWord (wordOfBytes hi lo) with
    | .ok i => .ok (i, rest)
    | .error e => .error e
  | _ => .error .truncated

/-- The instruction the decoder reads from the bits `w` of a row of spec/opcode_table.json that gives the
row `nbits` bits; a bit above `nbits` is 0. The one word is laid out big-endian (R63). -/
def decodeTableWord (nbits w : Nat) : Option Instr :=
  let word : Word := BitVec.ofNat 16 (w % 2 ^ nbits)
  match decode [highByte word, lowByte word] with
  | .ok (i, _) => some i
  | .error _ => none

/-! ### The encoder (the formats of R92, the fixed bits of R95) -/

/-- Format `F_NNN`: `OP`, `NNN`. -/
def encNNN (op : BitVec 4) (nnn : BitVec 12) : Word := op ++ nnn

/-- Format `F_XKK`: `OP`, `X`, `KK`. -/
def encXKK (op : BitVec 4) (x : Reg) (kk : Byte) : Word := (op ++ fieldOfReg x) ++ kk

/-- Formats `F_XY` and `F_XYN`: `OP`, `X`, `Y` and the low nibble. -/
def encXYN (op : BitVec 4) (x y : Reg) (n : BitVec 4) : Word :=
  (op ++ fieldOfReg x) ++ (fieldOfReg y ++ n)

/-- Format `F_X` is `F_XKK` with `KK` a fixed sub-opcode. -/
def encX (op : BitVec 4) (x : Reg) (sub : Byte) : Word := encXKK op x sub

/-- The word of a well-formed instruction (R92, R95). -/
def encode : Instr → Word
  | .cls => 0x00E0
  | .ret => 0x00EE
  | .jp nnn => encNNN 0x1 nnn
  | .call nnn => encNNN 0x2 nnn
  | .seImm x kk => encXKK 0x3 x kk
  | .sneImm x kk => encXKK 0x4 x kk
  | .seReg x y => encXYN 0x5 x y 0x0
  | .ldImm x kk => encXKK 0x6 x kk
  | .addImm x kk => encXKK 0x7 x kk
  | .ldReg x y => encXYN 0x8 x y 0x0
  | .orReg x y => encXYN 0x8 x y 0x1
  | .andReg x y => encXYN 0x8 x y 0x2
  | .xorReg x y => encXYN 0x8 x y 0x3
  | .addReg x y => encXYN 0x8 x y 0x4
  | .subReg x y => encXYN 0x8 x y 0x5
  | .shr x y => encXYN 0x8 x y 0x6
  | .subnReg x y => encXYN 0x8 x y 0x7
  | .shl x y => encXYN 0x8 x y 0xE
  | .sneReg x y => encXYN 0x9 x y 0x0
  | .ldI nnn => encNNN 0xA nnn
  | .jpV0 nnn => encNNN 0xB nnn
  | .rnd x kk => encXKK 0xC x kk
  | .drw x y n => encXYN 0xD x y (BitVec.ofNat 4 n)
  | .skp x => encX 0xE x 0x9E
  | .sknp x => encX 0xE x 0xA1
  | .ldVxDt x => encX 0xF x 0x07
  | .ldVxK x => encX 0xF x 0x0A
  | .ldDtVx x => encX 0xF x 0x15
  | .ldStVx x => encX 0xF x 0x18
  | .addI x => encX 0xF x 0x1E
  | .ldF x => encX 0xF x 0x29
  | .ldB x => encX 0xF x 0x33
  | .storeRegs x => encX 0xF x 0x55
  | .loadRegs x => encX 0xF x 0x65

/-! ### The opcode table (R95, R96) -/

/-- One row of R95: the number of the row, its match and its mask. -/
structure OpcodeRow where
  number : Nat
  fixed : Word
  mask : Word
  deriving DecidableEq, Repr

/-- `(w & mask) = match` (R96). -/
def OpcodeRow.matches (r : OpcodeRow) (w : Word) : Bool := w &&& r.mask == r.fixed

/-- The 34 rows of R95, in its order. -/
def opcodeRows : List OpcodeRow :=
  [⟨1, 0x00E0, 0xFFFF⟩, ⟨2, 0x00EE, 0xFFFF⟩, ⟨3, 0x1000, 0xF000⟩, ⟨4, 0x2000, 0xF000⟩,
   ⟨5, 0x3000, 0xF000⟩, ⟨6, 0x4000, 0xF000⟩, ⟨7, 0x5000, 0xF00F⟩, ⟨8, 0x6000, 0xF000⟩,
   ⟨9, 0x7000, 0xF000⟩, ⟨10, 0x8000, 0xF00F⟩, ⟨11, 0x8001, 0xF00F⟩, ⟨12, 0x8002, 0xF00F⟩,
   ⟨13, 0x8003, 0xF00F⟩, ⟨14, 0x8004, 0xF00F⟩, ⟨15, 0x8005, 0xF00F⟩, ⟨16, 0x8006, 0xF00F⟩,
   ⟨17, 0x8007, 0xF00F⟩, ⟨18, 0x800E, 0xF00F⟩] ++
  [⟨19, 0x9000, 0xF00F⟩, ⟨20, 0xA000, 0xF000⟩, ⟨21, 0xB000, 0xF000⟩, ⟨22, 0xC000, 0xF000⟩,
   ⟨23, 0xD000, 0xF000⟩, ⟨24, 0xE09E, 0xF0FF⟩, ⟨25, 0xE0A1, 0xF0FF⟩, ⟨26, 0xF007, 0xF0FF⟩,
   ⟨27, 0xF00A, 0xF0FF⟩, ⟨28, 0xF015, 0xF0FF⟩, ⟨29, 0xF018, 0xF0FF⟩, ⟨30, 0xF01E, 0xF0FF⟩,
   ⟨31, 0xF029, 0xF0FF⟩, ⟨32, 0xF033, 0xF0FF⟩, ⟨33, 0xF055, 0xF0FF⟩, ⟨34, 0xF065, 0xF0FF⟩]

/-- The number of the row of R95 an instruction belongs to. -/
def Instr.rowNumber : Instr → Nat
  | .cls => 1 | .ret => 2 | .jp _ => 3 | .call _ => 4 | .seImm _ _ => 5 | .sneImm _ _ => 6
  | .seReg _ _ => 7 | .ldImm _ _ => 8 | .addImm _ _ => 9 | .ldReg _ _ => 10 | .orReg _ _ => 11
  | .andReg _ _ => 12 | .xorReg _ _ => 13 | .addReg _ _ => 14 | .subReg _ _ => 15 | .shr _ _ => 16
  | .subnReg _ _ => 17 | .shl _ _ => 18 | .sneReg _ _ => 19 | .ldI _ => 20 | .jpV0 _ => 21
  | .rnd _ _ => 22 | .drw _ _ _ => 23 | .skp _ => 24 | .sknp _ => 25 | .ldVxDt _ => 26
  | .ldVxK _ => 27 | .ldDtVx _ => 28 | .ldStVx _ => 29 | .addI _ => 30 | .ldF _ => 31 | .ldB _ => 32
  | .storeRegs _ => 33 | .loadRegs _ => 34

end Sys2Proof
end

