-- ==== Sys2Proof/Machine/State.lean ====
section
/-! DEFINITION. The state of the machine (spec/10_state.md), the reasons a step can stop, and the state after
reset (R46). Plain data throughout. -/

namespace Sys2Proof.Machine

/-- The cause of a fault with its information (R290, R297, R298). -/
inductive Cause where
  /-- `IllegalOpcode(w)`: raised at decode when the fetched word `w` matches no instruction (R297). -/
  | illegalOpcode (w : Word)
  /-- `AddressOutOfRange(a)`: raised by fetch, `DXYN`, `FX33`, `FX55`, `FX65`; `a` is the lowest offending
  address, an exact number (R298). -/
  | addressOutOfRange (a : Nat)
  deriving DecidableEq, Repr

/-- The run state (R42). `stopped` and `faulted` are absorbing. -/
inductive RunState where
  | running
  | stopped
  | faulted (c : Cause)
  deriving DecidableEq, Repr

/-- A reported condition that enters `REPORTS` (R43, R292, R293). -/
inductive Report where
  | stackOverflow
  | stackUnderflow
  deriving DecidableEq, Repr

/-- An event of the input feed, with its logical key code; a code of 16 or more names no key (R41, R256). -/
inductive InputEvent where
  | press (k : Nat)
  | release (k : Nat)
  deriving DecidableEq, Repr

/-- Where the interpreter's loop (R253) stands between two steps; notes/assumptions/6.md. -/
inductive Phase where
  /-- the loop has not started: `load` and `configure` are still possible (R332) -/
  | boot
  /-- step 2 of an iteration: instruction catch-up (R257) -/
  | cycles
  /-- step 4 of an iteration: the timer ticks (R259) -/
  | ticks
  deriving DecidableEq, Repr

/-- Everything the spec gives the machine (INVENTORY.md lists it), and after it the model's own fields. -/
structure State where
  /-- `V0` to `VF` (R20, R22); `v[15]` doubles as the flag (R23) -/
  v : Vector Byte Config.nregs
  /-- the address register `I` (R25), all 16 bits kept -/
  i : Word
  /-- the program counter (R26) -/
  pc : Word
  /-- the stack pointer: how many return addresses the call stack holds, 0 to 16 (R29, C2) -/
  sp : Fin (Config.stackDepth + 1)
  /-- the call stack (R30) -/
  stack : Vector Word Config.stackDepth
  /-- the delay timer `DT` (R32) -/
  dt : Byte
  /-- the sound timer `ST` (R33) -/
  st : Byte
  /-- the input matrix: true for pressed (R34) -/
  key : Vector Bool Config.nkeys
  /-- the Display Buffer, `disp[y][x]` (R36, R37) -/
  disp : Display
  /-- the dirty flag (R38) -/
  drawPending : Bool
  /-- the Memory Image (R39, R60): the cells that differ from the reset image, in canonical form -/
  mem : List Host.Cell
  /-- scheduler accumulator, a `Time` (R40) -/
  lastInstructionTick : Nat
  /-- scheduler accumulator, a `Time` (R40) -/
  lastRenderTick : Nat
  /-- scheduler accumulator, a `Time` (R40) -/
  lastTimerTick : Nat
  /-- the input feed `INQ`, head first (R41) -/
  inq : List InputEvent
  /-- the host has closed the feed (R41) -/
  inqClosed : Bool
  /-- the run state (R42) -/
  run : RunState
  /-- `REPORTS`, oldest first (R43) -/
  reports : List Report
  /-- `FRAMES`: the clock reading of each frame-ready signal, oldest first (R44) -/
  frames : List Nat
  /-- the settings (R6, R7), constant while the loop runs (R273); notes/assumptions/2.md, 3.md, 4.md -/
  cfg : Settings
  /-- the model's own: where the loop stands; notes/assumptions/6.md -/
  phase : Phase
  /-- the model's own: the clock reading of this iteration (R254); notes/assumptions/5.md -/
  now : Nat
  /-- the model's own: the clock readings to come, an input (R14, R252); notes/assumptions/5.md -/
  clockFeed : List Nat
  /-- the model's own: how many random bytes have been drawn (R174); notes/assumptions/1.md -/
  draws : Nat
  /-- the model's own: a load has succeeded (R332, R334); notes/assumptions/8.md -/
  loaded : Bool
  deriving DecidableEq, Repr

/-- Why `step` answers that there is no step. No instruction raises one of these: an instruction's fault is
a next state whose `run` is `faulted` (R302). -/
inductive Fault where
  /-- Raised by `step` at a state that is already `Stopped`, the only good end (R274): no step follows it
  (R42, R275). Safe: the core does nothing there. notes/assumptions/9.md -/
  | stopped
  /-- Raised by `step` at a state that is already `Faulted`, with the cause the state records: no step follows
  it (R42, R302). Safe: the core does nothing there. notes/assumptions/9.md -/
  | faulted (c : Cause)
  /-- Raised by `step` before the loop has started, as long as no load has succeeded: the loop starts only after
  one (R332, decision D34). Safe: the core does nothing there. notes/assumptions/8.md -/
  | notLoaded
  deriving DecidableEq, Repr

/-- Why an instruction has no meaning. -/
inductive Refusal where
  /-- Raised by `exec`'s arm of an instruction that has no meaning yet; no arm does. Safe. -/
  | notModelled (mnemonic : String)
  deriving DecidableEq, Repr

/-- The outcome of a step or of an instruction. -/
abbrev Result := Host.Outcome State Fault Refusal

/-- The display with every cell 0 (R46, R212). -/
def blankDisplay : Display := Vector.replicate Config.dispH (Vector.replicate Config.dispW false)

/-- The state after reset: construction, then `init()`, before `load` (R46, R330, R331). Memory lists nothing,
so every byte reads as the reset image: the font at 0x050 to 0x09F and 0 elsewhere. The model's own fields
have the values of notes/assumptions/1.md, 2.md, 3.md, 4.md, 5.md, 6.md and 8.md; `t0` is 0. -/
def State.reset : State where
  v := Vector.replicate Config.nregs 0
  i := 0
  pc := BitVec.ofNat 16 Config.loadAddr
  sp := 0
  stack := Vector.replicate Config.stackDepth 0
  dt := 0
  st := 0
  key := Vector.replicate Config.nkeys false
  disp := blankDisplay
  drawPending := false
  mem := []
  lastInstructionTick := 0
  lastRenderTick := 0
  lastTimerTick := 0
  inq := []
  inqClosed := false
  run := .running
  reports := []
  frames := []
  cfg := Settings.default
  phase := .boot
  now := 0
  clockFeed := []
  draws := 0
  loaded := false

end Sys2Proof.Machine
end

