-- ==== Sys2Proof/Machine/Ops.lean ====
section
/-! DEFINITION. The named operations over memory, registers, the call stack and the timers, and the two ways an
instruction signals that something is wrong: reporting a condition (spec/60_exceptions.md R291) and raising a
fault (R302). -/

namespace Sys2Proof.Machine

/-! ### The Memory Image (spec/20_memory.md) -/

/-- What an address that memory does not list reads as: the content after reset and `init()`, which is the
font at `FONT_BASE` and 0 elsewhere (R46, R69). -/
def resetImage (font : Vector Byte Config.fontLen) (a : Nat) : Byte :=
  if h : Config.fontBase ≤ a ∧ a - Config.fontBase < Config.fontLen then font[a - Config.fontBase]'h.2 else 0

/-- The byte memory lists for `a`, if it lists one. -/
def Memory.lookup (a : Nat) : List Host.Cell → Option Byte
  | [] => none
  | (k, b) :: rest => if a = k then some b else Memory.lookup a rest

/-- The byte at `a`. -/
def Memory.read (font : Vector Byte Config.fontLen) (m : List Host.Cell) (a : Nat) : Byte :=
  (Memory.lookup a m).getD (resetImage font a)

/-- List `b` for `a`, keeping the addresses rising. -/
def Memory.insert (a : Nat) (b : Byte) : List Host.Cell → List Host.Cell
  | [] => [(a, b)]
  | (k, c) :: rest =>
    if a < k then (a, b) :: (k, c) :: rest
    else if a = k then (a, b) :: rest
    else (k, c) :: Memory.insert a b rest

/-- List nothing for `a`. -/
def Memory.erase (a : Nat) : List Host.Cell → List Host.Cell
  | [] => []
  | (k, c) :: rest => if a = k then rest else (k, c) :: Memory.erase a rest

/-- Write `b` at `a`, keeping the canonical form: writing what an unlisted `a` reads as unlists it. -/
def Memory.write (font : Vector Byte Config.fontLen) (m : List Host.Cell) (a : Nat) (b : Byte) : List Host.Cell :=
  if b = resetImage font a then Memory.erase a m else Memory.insert a b m

/-- Write the bytes one after another, the first at `a`, in rising order (R73). -/
def Memory.writeBytes (font : Vector Byte Config.fontLen) (a : Nat) : List Byte → List Host.Cell → List Host.Cell
  | [], m => m
  | b :: bs, m => Memory.writeBytes font (a + 1) bs (Memory.write font m a b)

/-- The canonical form: addresses strictly rising and inside the Memory Image (R60), and no listed byte equal to
what its address reads as unlisted. Equal memories are then equal lists. -/
abbrev Memory.wf (font : Vector Byte Config.fontLen) (m : List Host.Cell) : Prop :=
  m.Pairwise (fun p q => p.1 < q.1) ∧ ∀ c ∈ m, c.1 < Config.memSize ∧ c.2 ≠ resetImage font c.1

/-- The byte at address `a` (R66, `n = 1`, for an address in range). A read changes nothing. -/
def State.readByte (s : State) (a : Nat) : Byte := Memory.read s.cfg.fontTable s.mem a

/-- The word at addresses `a` and `a + 1`, big-endian (R63, R66, `n = 2`). -/
def State.readWord (s : State) (a : Nat) : Word := wordOfBytes (s.readByte a) (s.readByte (a + 1))

/-- The `n` bytes from `a` on. -/
def State.readBytes (s : State) (a n : Nat) : List Byte := (List.range n).map fun k => s.readByte (a + k)

/-- Store the bytes from `a` on (R67, once the range is checked). -/
def State.storeBytes (s : State) (a : Nat) (bs : List Byte) : State :=
  { s with mem := Memory.writeBytes s.cfg.fontTable a bs s.mem }

/-- The range check of an access to `len` bytes from `base` (R62, R66, R190): the lowest offending address when
an address of the access is above `MEM_SIZE - 1`. An access to no byte offends nowhere (R298, `DXYN` with `N = 0`). -/
def rangeFault (base len : Nat) : Option Nat :=
  if len = 0 ∨ base + len ≤ Config.memSize then none else some (max base Config.memSize)

/-! ### Registers -/

/-- `V[r]` (R11, R22: no register is hardwired). -/
def State.reg (s : State) (r : Reg) : Byte := s.v[r]

/-- `V[r] <- b`. -/
def State.setReg (s : State) (r : Reg) (b : Byte) : State := { s with v := s.v.set r b }

/-- `V[r], V[r + 1], ... <- bs`, in rising order, up to `V[15]` (R196). -/
def writeRegs (r : Nat) : List Byte → Vector Byte Config.nregs → Vector Byte Config.nregs
  | [], v => v
  | b :: bs, v => writeRegs (r + 1) bs (if h : r < Config.nregs then v.set r b else v)

/-- `I <- w` (R25). -/
def State.setI (s : State) (w : Word) : State := { s with i := w }

/-- `pc <- w` (R26). -/
def State.setPc (s : State) (w : Word) : State := { s with pc := w }

/-- `DT <- b` (R32). -/
def State.setDT (s : State) (b : Byte) : State := { s with dt := b }

/-- `ST <- b` (R33). -/
def State.setST (s : State) (b : Byte) : State := { s with st := b }

/-- The display after `00E0` or `DXYN`: the new cells, and the dirty flag set (R216). -/
def State.showDisplay (s : State) (d : Display) : State := { s with disp := d, drawPending := true }

/-! ### The call stack (R31) -/

/-- `push(w)`: into slot `sp`, when fewer than 16 are held; `none` when the push fails. -/
def State.push (s : State) (w : Word) : Option State :=
  if h : s.sp.val < Config.stackDepth then
    some { s with stack := s.stack.set s.sp.val w, sp := ⟨s.sp.val + 1, Nat.succ_lt_succ h⟩ }
  else none

/-- `pop()`: the word of slot `sp - 1`, which keeps its value, when one is held; `none` when the pop fails. -/
def State.pop (s : State) : Option (Word × State) :=
  if h : 0 < s.sp.val then
    have hj : s.sp.val - 1 < Config.stackDepth :=
      Nat.lt_of_lt_of_le (Nat.sub_lt h Nat.one_pos) (Nat.le_of_lt_succ s.sp.isLt)
    some (s.stack[s.sp.val - 1], { s with sp := ⟨s.sp.val - 1, Nat.lt_succ_of_lt hj⟩ })
  else none

/-! ### Timers -/

/-- One decrement of a timer, never below 0 (R32, R259). -/
def countDown (b : Byte) : Byte := if b = 0 then 0 else b - 1

/-- `TimerTick()` (R259); also phase 5 of a cycle when `TIMER_PER_CYCLE` is true (R126). -/
def State.timerTick (s : State) : State := { s with dt := countDown s.dt, st := countDown s.st }

/-! ### Keys -/

/-- `is_pressed(k)` (R35): false for a code that names no key. -/
def State.isPressed (s : State) (k : Byte) : Bool := if h : k.toNat < Config.nkeys then s.key[k.toNat] else false

/-- `first_pressed()` (R233): the least pressed key. -/
def State.firstPressed (s : State) : Option (Fin Config.nkeys) := (List.finRange Config.nkeys).find? fun k => s.key[k]

/-! ### The random byte -/

/-- `draw()` (R174): a fresh byte that nothing constrains, and the state that has drawn it.
FREE VALUE, notes/assumptions/1.md. -/
def State.draw (s : State) : Byte × State :=
  (Config.randomByte s.draws, { s with draws := s.draws + 1 })

/-! ### Reporting and raising -/

/-- `report c` (R291): append to `REPORTS`, and nothing else. -/
def State.report (s : State) (c : Report) : State := { s with reports := s.reports ++ [c] }

/-- `raise c` (R302): control goes nowhere, no register is saved; `pc` is the address `pc0` of the faulting
instruction and `run` records the cause with its information. The caller passes a state in which the cycle has
written nothing but `pc` (R128). There is no return from a fault: only reset leaves `faulted` (R304). -/
def State.raise (s : State) (pc0 : Word) (c : Cause) : State := { s with pc := pc0, run := .faulted c }

/-- `raise c` from inside an instruction, where `pc` is already `pc0 + 2` (R123, R302). -/
def State.raiseInInstr (s : State) (c : Cause) : State := s.raise (s.pc - 2) c

/-- An instruction that reaches memory: check its whole range first, then do `k`'s effect or raise
`AddressOutOfRange` with no effect (R62, R190). -/
def State.checkRange (s : State) (base len : Nat) (k : State) : Result :=
  match rangeFault base len with
  | some a => .next (s.raiseInInstr (.addressOutOfRange a))
  | none => .next k

end Sys2Proof.Machine
end

