-- ==== Sys2Proof/Machine/Operands.lean ====
section
/-! DEFINITION. The operand forms (spec/30_encoding.md R94, spec/43_index_memory.md R190). Every operand is read
from the state at dispatch, before the instruction writes anything (R12). -/

namespace Sys2Proof.Machine

/-- `zext_16(NNN)` (R94). -/
def zextAddr (nnn : BitVec 12) : Word := nnn.setWidth 16

/-- `zext_16` of a byte (R144, R192). -/
def zextByte (b : Byte) : Word := b.setWidth 16

/-- The effective address of byte 0 of a transfer through `I`: the full 16-bit value, exact (R61, R190). -/
def State.base (s : State) : Nat := s.i.toNat

/-- `V[0]` to `V[x]`, lowest first (R195). -/
def State.regsUpTo (s : State) (x : Reg) : List Byte := s.v.toList.take (x.val + 1)

/-- `V[0]` to `V[x]` from bytes, lowest first (R196). -/
def State.setRegsFrom (s : State) (bs : List Byte) : State := { s with v := writeRegs 0 bs s.v }

/-- `I` after a block transfer of `x + 1` bytes (R195, R196, R197). -/
def State.advanceI (s : State) (x : Reg) : Word := s.i + BitVec.ofNat 16 (x.val + 1)

/-- The three decimal digits of a byte, hundreds first (R194; the order is G5). -/
def decimalDigits (b : Byte) : List Byte :=
  [BitVec.ofNat 8 (b.toNat / 100), BitVec.ofNat 8 (b.toNat / 10 % 10), BitVec.ofNat 8 (b.toNat % 10)]

/-- `FONT_BASE + GLYPH_LEN * b` on the whole byte (R193). -/
def glyphAddress (b : Byte) : Word := BitVec.ofNat 16 (Config.fontBase + Config.glyphLen * b.toNat)

/-- "Skip next instruction": `pc <- pc + 2` when the condition holds (R140). -/
def State.skipIf (s : State) (c : Bool) : State := if c then s.setPc (s.pc + 2) else s

end Sys2Proof.Machine
end

