-- ==== Sys2Proof/Machine/Control.lean ====
section
/-! DEFINITION. Control transfer (spec/41_control.md R140 to R149). When a meaning starts, `pc` already holds
`pc0 + 2` (R123). -/

namespace Sys2Proof.Machine

/-- `00EE` (R141). -/
def execRet (s : State) : Result :=
  match s.pop with
  | some (w, t) => .next (t.setPc w)
  | none => .next (s.report .stackUnderflow)

/-- `1NNN` (R142). -/
def execJp (nnn : BitVec 12) (s : State) : Result := .next (s.setPc (zextAddr nnn))

/-- `2NNN` (R143): the jump is taken whether or not the push succeeds. -/
def execCall (nnn : BitVec 12) (s : State) : Result :=
  match s.push s.pc with
  | some t => .next (t.setPc (zextAddr nnn))
  | none => .next ((s.report .stackOverflow).setPc (zextAddr nnn))

/-- `BNNN` (R144): the offset is always `V[0]`; the sum keeps 16 bits. -/
def execJpV0 (nnn : BitVec 12) (s : State) : Result :=
  .next (s.setPc (zextAddr nnn + zextByte (s.reg 0)))

/-- `3XKK` (R145). -/
def execSeImm (x : Reg) (kk : Byte) (s : State) : Result := .next (s.skipIf (s.reg x == kk))

/-- `4XKK` (R146). -/
def execSneImm (x : Reg) (kk : Byte) (s : State) : Result := .next (s.skipIf (s.reg x != kk))

/-- `5XY0` (R147). -/
def execSeReg (x y : Reg) (s : State) : Result := .next (s.skipIf (s.reg x == s.reg y))

/-- `9XY0` (R148). -/
def execSneReg (x y : Reg) (s : State) : Result := .next (s.skipIf (s.reg x != s.reg y))

end Sys2Proof.Machine
end

