-- ==== Sys2Proof/Machine/Flags.lean ====
section
/-! DEFINITION. The flag computations (spec/10_state.md R23, R24; spec/42_load_alu.md R160). -/

namespace Sys2Proof.Machine

/-- The value a flag write stores: 0 or 1, all 8 bits (R23). -/
def flagByte (f : Bool) : Byte := if f then 1 else 0

/-- `VF <- f` (R23). -/
def State.setFlag (s : State) (f : Bool) : State := s.setReg 15 (flagByte f)

/-- The data result first, the flag last: with `X = 15` the register ends holding the flag (R24, R161,
decision D10; notes/assumptions/11.md). -/
def State.setRegFlag (s : State) (x : Reg) (b : Byte) (f : Bool) : State := (s.setReg x b).setFlag f

/-- Carry-out of an 8-bit addition (R160, R168). -/
def carryOut (a b : Byte) : Bool := decide (255 < a.toNat + b.toNat)

/-- The strict comparison `a > b` of R169 and R171, unsigned. -/
def exceeds (a b : Byte) : Bool := decide (b.toNat < a.toNat)

/-- The bit a right shift by one shifts out (R160, R170). -/
def bitShiftedRight (a : Byte) : Bool := a.getLsbD 0

/-- The bit a left shift by one shifts out (R160, R172). -/
def bitShiftedLeft (a : Byte) : Bool := a.getLsbD 7

end Sys2Proof.Machine
end

