-- ==== Sys2Proof/Machine/DisplayOps.lean ====
section
/-! DEFINITION. The display instructions (spec/44_display.md R210 to R217). -/

namespace Sys2Proof.Machine

/-- The cell of row `y` and column `x`. -/
def cellAt (d : Display) (y : Fin Config.dispH) (x : Fin Config.dispW) : Bool := d[y][x]

/-- `disp[y][x] <- disp[y][x] ^ 1`. -/
def toggleCell (d : Display) (y : Fin Config.dispH) (x : Fin Config.dispW) : Display :=
  d.set y (d[y].set x (!d[y][x]))

/-- A display being drawn on, and whether a lit cell has been turned off so far. -/
structure Canvas where
  disp : Display
  collision : Bool
  deriving DecidableEq, Repr

/-- The row a sprite row lands on: `mod 32` (R213, R214 a). -/
def wrapRow (y : Nat) : Fin Config.dispH := ⟨y % Config.dispH, Nat.mod_lt _ (by decide)⟩

/-- The column a sprite column lands on: `mod 64` (R213, C7). -/
def wrapCol (x : Nat) : Fin Config.dispW := ⟨x % Config.dispW, Nat.mod_lt _ (by decide)⟩

/-- One sprite bit: column `col` of row byte `b` is bit `7 - col` (R211); a set bit toggles its cell and
collides when the cell was lit (R213). -/
def drawBit (y x0 : Nat) (b : Byte) (c : Canvas) (col : Nat) : Canvas :=
  if b.getLsbD (7 - col) then
    { disp := toggleCell c.disp (wrapRow y) (wrapCol (x0 + col))
      collision := c.collision || cellAt c.disp (wrapRow y) (wrapCol (x0 + col)) }
  else c

/-- One sprite row: columns 0 to 7, ascending (R213). -/
def drawRow (y x0 : Nat) (b : Byte) (c : Canvas) : Canvas := (List.range 8).foldl (drawBit y x0 b) c

/-- The sprite rows, the first at row `y`, ascending (R213). -/
def drawRows (x0 : Nat) : Nat → List Byte → Canvas → Canvas
  | _, [], c => c
  | y, b :: bs, c => drawRows x0 (y + 1) bs (drawRow y x0 b c)

/-- `00E0` (R212). -/
def execCls (s : State) : Result := .next (s.showDisplay blankDisplay)

/-- `DXYN` (R213, R214): coordinates are read before `VF` is written; the flag is the collision. -/
def execDrw (x y : Reg) (n : Nat) (s : State) : Result :=
  let c := drawRows (s.reg x).toNat (s.reg y).toNat (s.readBytes s.base n) ⟨s.disp, false⟩
  s.checkRange s.base n ((s.showDisplay c.disp).setFlag c.collision)

end Sys2Proof.Machine
end

