-- ==== Sys2Proof/Machine/IndexMemory.lean ====
section
/-! DEFINITION. The address register and memory transfers (spec/43_index_memory.md R190 to R197). -/

namespace Sys2Proof.Machine

/-- `ANNN` (R191). -/
def execLdI (nnn : BitVec 12) (s : State) : Result := .next (s.setI (zextAddr nnn))

/-- `FX1E` (R192): wraps modulo 65536, no flag. -/
def execAddI (x : Reg) (s : State) : Result := .next (s.setI (s.i + zextByte (s.reg x)))

/-- `FX29` (R193). -/
def execLdF (x : Reg) (s : State) : Result := .next (s.setI (glyphAddress (s.reg x)))

/-- `FX33` (R194): `I` is not changed. -/
def execLdB (x : Reg) (s : State) : Result :=
  s.checkRange s.base 3 (s.storeBytes s.base (decimalDigits (s.reg x)))

/-- `FX55` (R195). -/
def execStoreRegs (x : Reg) (s : State) : Result :=
  s.checkRange s.base (x.val + 1) ((s.storeBytes s.base (s.regsUpTo x)).setI (s.advanceI x))

/-- `FX65` (R196). -/
def execLoadRegs (x : Reg) (s : State) : Result :=
  s.checkRange s.base (x.val + 1) ((s.setRegsFrom (s.readBytes s.base (x.val + 1))).setI (s.advanceI x))

end Sys2Proof.Machine
end

