-- ==== Sys2Proof/Machine/KeysTimers.lean ====
section
/-! DEFINITION. The key and timer instructions (spec/45_keys_timers.md R230 to R238). Keys are levels of the
matrix as it stands at this cycle (R230). -/

namespace Sys2Proof.Machine

/-- `EX9E` (R231): the whole byte is the key code. -/
def execSkp (x : Reg) (s : State) : Result := .next (s.skipIf (s.isPressed (s.reg x)))

/-- `EXA1` (R232). -/
def execSknp (x : Reg) (s : State) : Result := .next (s.skipIf (!s.isPressed (s.reg x)))

/-- `FX07` (R235). -/
def execLdVxDt (x : Reg) (s : State) : Result := .next (s.setReg x s.dt)

/-- `FX0A` (R234): with no key down, `pc` is rolled back so that the same word is fetched next. -/
def execLdVxK (x : Reg) (s : State) : Result :=
  match s.firstPressed with
  | some k => .next (s.setReg x (BitVec.ofNat 8 k.val))
  | none => .next (s.setPc (s.pc - 2))

/-- `FX15` (R236). -/
def execLdDtVx (x : Reg) (s : State) : Result := .next (s.setDT (s.reg x))

/-- `FX18` (R237). -/
def execLdStVx (x : Reg) (s : State) : Result := .next (s.setST (s.reg x))

end Sys2Proof.Machine
end

