-- ==== Sys2Proof/Machine/LoadAlu.lean ====
section
/-! DEFINITION. Register load, arithmetic, logic, shift and random (spec/42_load_alu.md R160 to R174). -/

namespace Sys2Proof.Machine

/-- `6XKK` (R162). -/
def execLdImm (x : Reg) (kk : Byte) (s : State) : Result := .next (s.setReg x kk)

/-- `7XKK` (R163): wrapping, no flag. -/
def execAddImm (x : Reg) (kk : Byte) (s : State) : Result := .next (s.setReg x (s.reg x + kk))

/-- `8XY0` (R164). -/
def execLdReg (x y : Reg) (s : State) : Result := .next (s.setReg x (s.reg y))

/-- `8XY1` (R165): `VF` is left as it was (decision D11). -/
def execOrReg (x y : Reg) (s : State) : Result := .next (s.setReg x (s.reg x ||| s.reg y))

/-- `8XY2` (R166). -/
def execAndReg (x y : Reg) (s : State) : Result := .next (s.setReg x (s.reg x &&& s.reg y))

/-- `8XY3` (R167). -/
def execXorReg (x y : Reg) (s : State) : Result := .next (s.setReg x (s.reg x ^^^ s.reg y))

/-- `8XY4` (R168). -/
def execAddReg (x y : Reg) (s : State) : Result :=
  .next (s.setRegFlag x (s.reg x + s.reg y) (carryOut (s.reg x) (s.reg y)))

/-- The subtraction of R169 and R171: the difference is stored only when `a > b`, the flag always. -/
def State.subtract (s : State) (x : Reg) (a b : Byte) : State :=
  if exceeds a b then s.setRegFlag x (a - b) true else s.setFlag false

/-- `8XY5` (R169). -/
def execSubReg (x y : Reg) (s : State) : Result := .next (s.subtract x (s.reg x) (s.reg y))

/-- `8XY6` (R170): `VX` is shifted in place, the `Y` field is ignored. -/
def execShr (x : Reg) (s : State) : Result :=
  .next (s.setRegFlag x (s.reg x >>> 1) (bitShiftedRight (s.reg x)))

/-- `8XY7` (R171; the conditional write is decision D16). -/
def execSubnReg (x y : Reg) (s : State) : Result := .next (s.subtract x (s.reg y) (s.reg x))

/-- `8XYE` (R172): `VX` is shifted in place, the `Y` field is ignored. -/
def execShl (x : Reg) (s : State) : Result :=
  .next (s.setRegFlag x (s.reg x <<< 1) (bitShiftedLeft (s.reg x)))

/-- `CXKK` (R173): the random byte is a free value (R174). -/
def execRnd (x : Reg) (kk : Byte) (s : State) : Result :=
  .next (s.draw.2.setReg x (s.draw.1 &&& kk))

end Sys2Proof.Machine
end

