-- ==== Sys2Proof/Machine/Cycle.lean ====
section
/-! DEFINITION. The fetch-decode-execute cycle (spec/40_cycle.md R120 to R131). -/

namespace Sys2Proof.Machine

/-- The word the next cycle fetches (R122). -/
def State.fetchWord (s : State) : Word := s.readWord s.pc.toNat

/-- The state at dispatch: `pc` advanced before decode, for every instruction (R123). -/
def State.advancePc (s : State) : State := s.setPc (s.pc + 2)

/-- Phase 5 (R126): the per-cycle timer decrement, only when `TIMER_PER_CYCLE` is true and the cycle has not
faulted (R128). -/
def State.endCycle (s : State) : State :=
  if s.cfg.timerPerCycle ∧ s.run = .running then s.timerTick else s

/-- `InstructionCycle()` (R129) at a running state: fetch, advance, decode, execute, phase 5. The order of
checks is fixed: fetch range, then decode, then the instruction's own (R301). -/
def instructionCycle (s : State) : Result :=
  match rangeFault s.pc.toNat 2 with
  | some a => .next (s.raise s.pc (.addressOutOfRange a))
  | none =>
    match decodeWord s.fetchWord with
    | .error _ => .next (s.raise s.pc (.illegalOpcode s.fetchWord))
    | .ok i =>
      match exec i s.advancePc with
      | .next t => .next t.endCycle
      | .fault f => .fault f
      | .refused r => .refused r

end Sys2Proof.Machine
end

