-- ==== Sys2Proof/Machine/Scheduler.lean ====
section
/-! DEFINITION. The fixed-timestep scheduler (spec/47_scheduler.md R250 to R264). R253's loop is cut into its
atomic steps (R13): one instruction cycle, one timer tick, one input delivery, one frame-ready signal, or, when
nothing is due, one reading of the clock. `phase` says where the loop stands between two of them
(notes/assumptions/6.md). The same reading `now` serves one whole iteration (R254). -/

namespace Sys2Proof.Machine

/-- `now - last_instruction_tick >= instruction_interval` (R257). -/
def State.instrDue (s : State) : Bool := decide (s.lastInstructionTick + s.cfg.instrInterval ≤ s.now)

/-- A draw occurred and `now - last_render_tick >= render_interval` (R258). -/
def State.frameDue (s : State) : Bool :=
  s.drawPending && decide (s.lastRenderTick + s.cfg.renderInterval ≤ s.now)

/-- `now - last_timer_tick >= timer_interval` (R259). -/
def State.timerDue (s : State) : Bool := decide (s.lastTimerTick + s.cfg.timerInterval ≤ s.now)

/-- The earliest of the three next deadlines (R260): until when step 5 sleeps, unless it is already past.
Sleeping changes no state; notes/assumptions/10.md. -/
def State.sleepDeadline (s : State) : Nat :=
  min (s.lastInstructionTick + s.cfg.instrInterval)
    (min (s.lastTimerTick + s.cfg.timerInterval) (s.lastRenderTick + s.cfg.renderInterval))

/-- One reading of the clock (R14, R254): the next reading of the feed, and `dflt` when the feed lists none.
Successive readings never decrease. notes/assumptions/5.md -/
def State.readClock (s : State) (dflt : Nat) : State :=
  match s.clockFeed with
  | [] => { s with now := max s.now dflt }
  | t :: rest => { s with now := max s.now t, clockFeed := rest }

/-- The start of the loop (R255, R332): the clock is read and all three accumulators are that reading `t0`. -/
def State.startLoop (s : State) : State :=
  let r := s.readClock s.now
  { r with lastInstructionTick := r.now, lastRenderTick := r.now, lastTimerTick := r.now, phase := .ticks }

/-- Applying an input event to the key matrix (R256); a code of 16 or more names no key and changes nothing. -/
def applyEvent (e : InputEvent) (key : Vector Bool Config.nkeys) : Vector Bool Config.nkeys :=
  match e with
  | .press k => if h : k < Config.nkeys then key.set k true else key
  | .release k => if h : k < Config.nkeys then key.set k false else key

/-- Step 2 for one due cycle (R257): run it, then advance the accumulator by one interval, never to `now`. The
accumulator advances whatever the cycle did, as R253 writes it; notes/assumptions/16.md. -/
def State.dueCycle (s : State) : Result :=
  match instructionCycle s with
  | .next t =>
    .next { t with lastInstructionTick := t.lastInstructionTick + t.cfg.instrInterval, phase := .cycles }
  | .fault f => .fault f
  | .refused r => .refused r

/-- Step 3 when it is due (R258): one frame-ready signal, the accumulator advanced by one interval, the dirty
flag cleared. It is an `if`: step 4 follows. -/
def State.signalFrame (s : State) : State :=
  { s with frames := s.frames ++ [s.now], lastRenderTick := s.lastRenderTick + s.cfg.renderInterval,
           drawPending := false, phase := .ticks }

/-- Step 4 for one due tick (R259). -/
def State.dueTick (s : State) : State :=
  { s.timerTick with lastTimerTick := s.lastTimerTick + s.cfg.timerInterval, phase := .ticks }

/-- The clock reading of a new iteration (R254), after which step 2 begins. With no reading listed, the loop
wakes when the next instruction cycle is due; notes/assumptions/5.md. -/
def State.readNow (s : State) : State :=
  { s.readClock (s.lastInstructionTick + s.cfg.instrInterval) with phase := .cycles }

/-- A new iteration (R253): step 1 takes at most one event (R256), or stops when the feed is closed and empty
(R256, R274), or does nothing; then the clock is read and step 2 begins. When step 1 did nothing and a cycle
is due, the same step runs it. -/
def State.startIteration (s : State) : Result :=
  match s.inq with
  | e :: rest => .next ({ s with key := applyEvent e s.key, inq := rest } : State).readNow
  | [] =>
    if s.inqClosed then .next { s with run := .stopped }
    else if s.readNow.instrDue then s.readNow.dueCycle
    else .next s.readNow

/-- Steps 4 and 5 (R259, R260): the next due tick; when none is due the iteration is over and, after the sleep,
the next one starts. -/
def State.ticksPhase (s : State) : Result :=
  if s.timerDue then .next s.dueTick else s.startIteration

/-- Steps 2 and 3 (R257, R258): the next due cycle; when none is due, the frame-ready signal if it is due;
then steps 4 and 5. -/
def State.cyclesPhase (s : State) : Result :=
  if s.instrDue then s.dueCycle
  else if s.frameDue then .next s.signalFrame
  else s.ticksPhase

/-- Leaving `boot`: the loop starts only after a successful load (R332, decision D34; notes/assumptions/8.md), and its
first iteration begins in the same step. -/
def State.bootPhase (s : State) : Result :=
  if s.loaded then s.startLoop.startIteration else .fault .notLoaded

/-- One step of the core: the next atomic step of R253. In `stopped` and `faulted` there is none (R42), and before
a load there is none yet (R332). -/
def schedulerStep (s : State) : Result :=
  match s.run with
  | .stopped => .fault .stopped
  | .faulted c => .fault (.faulted c)
  | .running =>
    match s.phase with
    | .boot => s.bootPhase
    | .cycles => s.cyclesPhase
    | .ticks => s.ticksPhase

end Sys2Proof.Machine
end

