-- ==== Sys2Proof/Machine/HostPorts.lean ====
section
/-! DEFINITION. What the host does to the core (spec/47_scheduler.md R265 to R275, spec/70_reset_and_hazards.md
R330 to R341). Each is one atomic step of the host, between two steps of the core (R13); `step` takes none of
them (notes/assumptions/7.md). -/

namespace Sys2Proof.Machine

/-! ### Reset, `init()`, configuration, load -/

/-- Construction (R330): every piece of state zero, false or empty, with the settings of the machine. Memory is
zero everywhere, so the font's addresses are listed as holding 0. -/
def construct (c : Settings) : State :=
  { State.reset with
    pc := 0, cfg := c,
    mem := Memory.writeBytes c.fontTable Config.fontBase (List.replicate Config.fontLen 0) [] }

/-- `init()` (R331): the font copied to `FONT_BASE`, `pc` set to `LOAD_ADDR`, the display cleared. -/
def State.init (s : State) : State :=
  { s.storeBytes Config.fontBase s.cfg.fontTable.toList with
    pc := BitVec.ofNat 16 Config.loadAddr, disp := blankDisplay }

/-- What the host gets back from a port that may have no step for its call. -/
inductive PortResult where
  /-- `load` succeeded and reports the byte count (R333). -/
  | loaded (count : Nat) (s : State)
  /-- `load` failed with `RomTooLarge`; nothing changed (R294, R333). -/
  | romTooLarge
  /-- `configure` took the rates (R273). -/
  | configured (s : State)
  /-- The spec gives this call no step at this point (R273, R275, R334, U17). -/
  | noStep
  deriving DecidableEq, Repr

/-- `load(bytes)` (R333): before the loop starts, and once (R334, decision D34; notes/assumptions/8.md). -/
def State.load (s : State) (bytes : List Byte) : PortResult :=
  if s.phase = .boot ∧ s.loaded = false then
    if Config.romMax < bytes.length then .romTooLarge
    else .loaded bytes.length { s.storeBytes Config.loadAddr bytes with loaded := true }
  else .noStep

/-- `CONFIG` (R273): `INSTR_HZ` and `RENDER_HZ`, positive, before the loop starts; nothing else can be set. -/
def State.configure (s : State) (instrHz renderHz : Rate) : PortResult :=
  if s.phase = .boot ∧ instrHz.positive ∧ renderHz.positive then
    .configured { s with cfg := { s.cfg with instrHz := instrHz, renderHz := renderHz } }
  else .noStep

/-! ### The input feed (R267) -/

/-- Append `Press(k)` at the tail of `INQ`; after closing, the host appends nothing (decision D24). -/
def State.hostPress (s : State) (k : Nat) : State :=
  if s.inqClosed then s else { s with inq := s.inq ++ [.press k] }

/-- Append `Release(k)` at the tail of `INQ`; after closing, the host appends nothing (decision D24). -/
def State.hostRelease (s : State) (k : Nat) : State :=
  if s.inqClosed then s else { s with inq := s.inq ++ [.release k] }

/-- Close the feed (R267). It never reopens (R41). -/
def State.hostClose (s : State) : State := { s with inqClosed := true }

/-- The physical keys of R268. -/
inductive PhysicalKey where
  | one | two | three | four
  | q | w | e | r
  | a | s | d | f
  | z | x | c | v
  deriving DecidableEq, Repr

/-- The key map, on the host's side of the `INPUT` port (R268, C9); a key outside the table is no `PhysicalKey`
and makes no event. -/
def logicalKey : PhysicalKey → Fin Config.nkeys
  | .one => 0x1 | .two => 0x2 | .three => 0x3 | .four => 0xC
  | .q => 0x4 | .w => 0x5 | .e => 0x6 | .r => 0xD
  | .a => 0x7 | .s => 0x8 | .d => 0x9 | .f => 0xE
  | .z => 0xA | .x => 0x0 | .c => 0xB | .v => 0xF

/-! ### The display port and the clock -/

/-- A renderer snapshot (R271): all 2048 cells at one instant; the state is not changed. -/
def State.snapshot (s : State) : Display := s.disp

/-- The environment supplies the clock reading after those already listed (R14, R252; notes/assumptions/5.md). -/
def State.hostClock (s : State) (t : Nat) : State := { s with clockFeed := s.clockFeed ++ [t] }

end Sys2Proof.Machine
end

