-- ==== Sys2Proof/Machine/Step.lean ====
section
/-! DEFINITION. One step of the machine, and the placement of an instruction where the next step fetches it. -/

namespace Sys2Proof.Machine

/-- One step of the core (R13, R253). -/
def step (s : State) : Host.Outcome State Fault Refusal := schedulerStep s

/-- `s` with the word `w mod 2^nbits` stored big-endian (R63) at `pc`, and the scheduler in step 2 of a running
iteration with one cycle due (R257), so that the very next step fetches and runs it. It stands for the load of
a program and the start of the loop; notes/assumptions/15.md. -/
def State.withFetchWord (s : State) (nbits w : Nat) : State :=
  let word : Word := BitVec.ofNat 16 (w % 2 ^ nbits)
  let t := if s.pc.toNat + 2 ≤ Config.memSize then s.storeBytes s.pc.toNat [highByte word, lowByte word] else s
  { t with run := .running, phase := .cycles, loaded := true,
           now := max s.now (s.lastInstructionTick + s.cfg.instrInterval) }

end Sys2Proof.Machine
end

