-- ==== Sys2Proof/Safety.lean ====
section
/-! DEFINITION. The terms the claims use: what "unchanged" means, which instruction may change what, the invariants of
the machine, and the states the machine can reach with its host and its clock. -/

namespace Sys2Proof.Machine

/-! ### Frames -/

/-- Every byte of memory reads as before. -/
def SameMemory (s t : State) : Prop := ∀ a, t.readByte a = s.readByte a

/-- Every byte of memory outside the `n` bytes from `a` reads as before. -/
def SameMemoryOutside (a n : Nat) (s t : State) : Prop :=
  ∀ k, ¬ (a ≤ k ∧ k < a + n) → t.readByte k = s.readByte k

/-- Every general register other than those in `w` holds what it held. -/
def SameRegsExcept (w : List Reg) (s t : State) : Prop := ∀ r, r ∉ w → t.reg r = s.reg r

/-- Every cell of the display is as before. -/
def SameCells (s t : State) : Prop := ∀ y x, cellAt t.disp y x = cellAt s.disp y x

/-- The whole frame of an instruction that writes only general registers, those in `w`: no other register, no byte of
memory, and no other field of the state changes. (An instruction's rule is written against the advanced `pc`,
R123, so `pc` unchanged here is `pc0 + 2` after the cycle.) -/
def OnlyRegs (w : List Reg) (s t : State) : Prop :=
  SameRegsExcept w s t ∧ SameMemory s t ∧ t = { s with v := t.v }

/-- The whole frame of an instruction that writes only `pc`. -/
def OnlyPc (s t : State) : Prop :=
  SameRegsExcept [] s t ∧ SameMemory s t ∧ t = { s with pc := t.pc }

/-- The whole frame of an instruction that writes only `I`. -/
def OnlyI (s t : State) : Prop :=
  SameRegsExcept [] s t ∧ SameMemory s t ∧ t = { s with i := t.i }

/-! ### Which instruction may write what (R21, R24, R25, R29, R32, R33, R36, R71) -/

/-- The general registers an instruction's rule writes, the flag among them (R21, R24). -/
def destRegs : Instr → List Reg
  | .ldImm x _ | .addImm x _ | .ldReg x _ | .orReg x _ | .andReg x _ | .xorReg x _ | .rnd x _
  | .ldVxDt x | .ldVxK x => [x]
  | .addReg x _ | .subReg x _ | .shr x _ | .subnReg x _ | .shl x _ => [x, 15]
  | .drw _ _ _ => [15]
  | .loadRegs x => (List.finRange Config.nregs).filter fun r => r ≤ x
  | .cls | .ret | .jp _ | .call _ | .seImm _ _ | .sneImm _ _ | .seReg _ _ | .sneReg _ _ | .ldI _
  | .jpV0 _ | .skp _ | .sknp _ | .ldDtVx _ | .ldStVx _ | .addI _ | .ldF _ | .ldB _
  | .storeRegs _ => []

/-- How many bytes of memory from `I` on an instruction's rule writes (R61, R71). -/
def storeLen : Instr → Nat
  | .ldB _ => 3
  | .storeRegs x => x.val + 1
  | .cls | .ret | .jp _ | .call _ | .seImm _ _ | .sneImm _ _ | .seReg _ _ | .sneReg _ _ | .ldImm _ _
  | .addImm _ _ | .ldReg _ _ | .orReg _ _ | .andReg _ _ | .xorReg _ _ | .addReg _ _ | .subReg _ _
  | .shr _ _ | .subnReg _ _ | .shl _ _ | .ldI _ | .jpV0 _ | .rnd _ _ | .drw _ _ _ | .skp _ | .sknp _
  | .ldVxDt _ | .ldVxK _ | .ldDtVx _ | .ldStVx _ | .addI _ | .ldF _ | .loadRegs _ => 0

/-- How many bytes of memory from `I` on an instruction's rule reaches (R61). -/
def accessLen : Instr → Nat
  | .drw _ _ n => n
  | .ldB _ => 3
  | .storeRegs x | .loadRegs x => x.val + 1
  | .cls | .ret | .jp _ | .call _ | .seImm _ _ | .sneImm _ _ | .seReg _ _ | .sneReg _ _ | .ldImm _ _
  | .addImm _ _ | .ldReg _ _ | .orReg _ _ | .andReg _ _ | .xorReg _ _ | .addReg _ _ | .subReg _ _
  | .shr _ _ | .subnReg _ _ | .shl _ _ | .ldI _ | .jpV0 _ | .rnd _ _ | .skp _ | .sknp _
  | .ldVxDt _ | .ldVxK _ | .ldDtVx _ | .ldStVx _ | .addI _ | .ldF _ => 0

/-! ### Encodings -/

/-- The illegal words, listed by the numbers of R98: `w / 4096` is `OP`, `w % 256` is `KK`, `w % 16` is `N`. -/
def IllegalWord (w : Nat) : Prop :=
  (w / 4096 = 0 ∧ w ≠ 0x00E0 ∧ w ≠ 0x00EE) ∨
  (w / 4096 = 5 ∧ w % 16 ≠ 0) ∨
  (w / 4096 = 8 ∧ w % 16 ∈ [0x8, 0x9, 0xA, 0xB, 0xC, 0xD, 0xF]) ∨
  (w / 4096 = 9 ∧ w % 16 ≠ 0) ∨
  (w / 4096 = 14 ∧ w % 256 ∉ [0x9E, 0xA1]) ∨
  (w / 4096 = 15 ∧ w % 256 ∉ [0x07, 0x0A, 0x15, 0x18, 0x1E, 0x29, 0x33, 0x55, 0x65])

/-- The words that decode to `i` are the one word whose value is `w`: the encoding of the rule of `i` (R92, R95). -/
def HasWord (i : Instr) (w : Nat) : Prop := ∀ v : Word, decodeWord v = .ok i ↔ v.toNat = w

/-! ### Sprites -/

/-- The sprite of `DXYN` has a set bit that lands on row `cy`, column `cx` (R211, R213): in some row byte, at some
column, with both coordinates wrapped. -/
def SpriteHits (s : State) (x y : Reg) (n : Nat) (cy : Fin 32) (cx : Fin 64) : Prop :=
  ∃ row, row < n ∧ ∃ col, col < 8 ∧ (s.readByte (s.i.toNat + row)).getLsbD (7 - col) = true ∧
    cy.val = ((s.reg y).toNat + row) % 32 ∧ cx.val = ((s.reg x).toNat + col) % 64

/-! ### Invariants -/

/-- The invariant of the processor (R47): `sp` counts 0 to 16 by its type; `pc` stays at or below 0x10FE; a return
address is at most 0x1000 (R123); memory is in its canonical form. -/
def ProcInv (s : State) : Prop :=
  s.pc.toNat ≤ 0x10FE ∧ (∀ j : Fin 16, (s.stack[j]).toNat ≤ 0x1000) ∧ Memory.wf s.cfg.fontTable s.mem

/-- The invariant of the scheduler (R261): the rates are legal (R6, R273), the loop has started only after a load (R332), no
accumulator is ahead of the clock reading, and once the cycles of an iteration are done less than one instruction
interval is left over. -/
def SchedInv (s : State) : Prop :=
  s.cfg.legal ∧ (s.phase ≠ .boot → s.loaded = true) ∧ s.lastInstructionTick ≤ s.now ∧ s.lastRenderTick ≤ s.now ∧ s.lastTimerTick ≤ s.now ∧
    (s.phase = .ticks → s.now < s.lastInstructionTick + s.cfg.instrInterval)

/-- Nothing is left to do in the current iteration (R253): the next step starts a new one. -/
def IterationOver (s : State) : Prop :=
  s.run = .running ∧ s.timerDue = false ∧
    (s.phase = .ticks ∨ (s.phase = .cycles ∧ s.instrDue = false ∧ s.frameDue = false))

/-- The start of the loop (R255, R332), possible only after a successful load (decision D34): `s₀` is `s` with the clock
read once, as the list of readings and the rule that a reading never decreases give it, and with the three
accumulators at that reading. -/
def LoopStart (s s₀ : State) : Prop :=
  s.run = .running ∧ s.phase = .boot ∧ s.loaded = true ∧
    ∃ t₀, t₀ = max s.now (s.clockFeed.headD s.now) ∧
      s₀ = { s with
        now := t₀, clockFeed := s.clockFeed.tail, lastInstructionTick := t₀, lastRenderTick := t₀,
        lastTimerTick := t₀, phase := .ticks }

/-- A step from `s` starts an iteration of R253, whose step 1 sees `s₀`: the first one, just after the start of the
loop, or a later one, when the one before is over. -/
def IterationStart (s s₀ : State) : Prop := LoopStart s s₀ ∨ (IterationOver s ∧ s₀ = s)

/-- The clock reading of an iteration whose step 1 sees `s₀` (R254): the next one listed, or with none listed the time at
which the next cycle is due (notes/assumptions/5.md), and never less than the one before (R14). -/
def State.iterationReading (s₀ : State) : Nat :=
  max s₀.now (s₀.clockFeed.headD (s₀.lastInstructionTick + s₀.cfg.instrInterval))

/-- A move of the host or of the clock that can fall between any two steps of the core (R13, R14, R267). -/
inductive HostMove (s : State) : State → Prop where
  | press (k : Nat) : HostMove s (s.hostPress k)
  | release (k : Nat) : HostMove s (s.hostRelease k)
  | close : HostMove s s.hostClose
  | clock (t : Nat) : HostMove s (s.hostClock t)

/-- The states the machine can be in: reset, then any interleaving of steps of the core with moves of the host
(R13, R267, R273, R333) and of the clock (R14). -/
inductive Reachable : State → Prop where
  | reset : Reachable State.reset
  | core {s t : State} : Reachable s → step s = .next t → Reachable t
  | host {s t : State} : Reachable s → HostMove s t → Reachable t
  | load {s t : State} {n : Nat} (bytes : List Byte) :
      Reachable s → s.load bytes = .loaded n t → Reachable t
  | configure {s t : State} (instrHz renderHz : Rate) :
      Reachable s → s.configure instrHz renderHz = .configured t → Reachable t

/-- An endless run of the timed scheduler: each state follows by a step of the core or a move between two of them. -/
def TimedRun (σ : Nat → State) : Prop := ∀ n, step (σ n) = .next (σ (n + 1)) ∨ HostMove (σ n) (σ (n + 1))

/-- What R263 says the source assumes and does not state: as long as the core runs, iterations keep being started and
the clock keeps advancing, past every reading (notes/assumptions/22.md). -/
def ClockAdvances (σ : Nat → State) : Prop := (∀ n, (σ n).run = .running) → ∀ r, ∃ n, r ≤ (σ n).now

/-! ### The time-free view (R263) -/

/-- A state without its clock: the accumulators, the readings, the place of the loop and the times of the frame
signals (their number stays) are forgotten. -/
def State.untimed (s : State) : State :=
  { s with lastInstructionTick := 0, lastRenderTick := 0, lastTimerTick := 0, now := 0, clockFeed := [],
           phase := .boot, frames := s.frames.map fun _ => 0 }

/-- The five kinds of move of R263. -/
inductive TimeFreeKind where
  | cycle | tick | deliver | frame | stop
  deriving DecidableEq, Repr

/-- The moves of R263, on states without a clock: each is possible only while `run = Running`. -/
inductive TimeFreeMove (s : State) : TimeFreeKind → State → Prop where
  /-- (i) an instruction cycle -/
  | cycle {t : State} : s.run = .running → instructionCycle s = .next t → TimeFreeMove s .cycle t.untimed
  /-- (ii) a timer tick -/
  | tick : s.run = .running → TimeFreeMove s .tick s.timerTick.untimed
  /-- (iii) delivery of the head event of `INQ` -/
  | deliver {e : InputEvent} {rest : List InputEvent} : s.run = .running → s.inq = e :: rest →
      TimeFreeMove s .deliver ({ s with key := applyEvent e s.key, inq := rest } : State).untimed
  /-- (iv) a frame-ready signal when `draw_pending` is true, clearing it -/
  | frame : s.run = .running → s.drawPending = true →
      TimeFreeMove s .frame ({ s with frames := s.frames ++ [0], drawPending := false } : State).untimed
  /-- (v) `run <- Stopped` when `INQ` is empty and closed -/
  | stop : s.run = .running → s.inq = [] → s.inqClosed = true →
      TimeFreeMove s .stop ({ s with run := .stopped } : State).untimed

/-- An endless run of the view: `κ n` is the move taken at `n`; where it is none, the host has acted or only the clock was
read, which the view does not see. -/
def TimeFreeRun (σ : Nat → State) (κ : Nat → Option TimeFreeKind) : Prop :=
  ∀ n, match κ n with
    | some k => TimeFreeMove (σ n) k (σ (n + 1))
    | none => σ (n + 1) = σ n ∨ HostMove (σ n) (σ (n + 1))

/-- The fairness assumption of R263: an instruction cycle, a timer tick, and the delivery or stop of (iii) and (v), are each
taken again and again while they stay possible. A frame-ready signal is not asked for. -/
def TimeFreeFair (σ : Nat → State) (κ : Nat → Option TimeFreeKind) : Prop :=
  ∀ g ∈ [[TimeFreeKind.cycle], [.tick], [.deliver, .stop]], ∀ n,
    (∀ m, n ≤ m → ∃ k ∈ g, ∃ t, TimeFreeMove (σ m) k t) → ∃ m, n ≤ m ∧ ∃ k ∈ g, κ m = some k

end Sys2Proof.Machine
end

