-- ==== Sys2Proof/Certificates/Slice0/Obligations.lean ====
section
/-! DEFINITION. The statements for the provers. Each docstring names the rules of spec/ it formalises, and says where
it rests on a decision of the spec (D<n>), on its general knowledge (G<n>) or on a choice of the model
(notes/assumptions/<n>.md). `exec` is applied at dispatch, where `pc` already holds `pc0 + 2` (R123). -/

open Sys2Proof Sys2Proof.Machine

/-! ### Encoding -/

/-- A few words, written out from the formats of R92 and the rows of R95, and the instructions they stand for. -/
def Obligations.SampleWordsDecode : Prop :=
  decodeWord 0x00EE = .ok .ret ∧ decodeWord 0x220A = .ok (.call 0x20A) ∧
  decodeWord 0x6A05 = .ok (.ldImm 10 5) ∧ decodeWord 0x80F4 = .ok (.addReg 0 15) ∧
  decodeWord 0xD125 = .ok (.drw 1 2 5) ∧ decodeWord 0xE5A1 = .ok (.sknp 5) ∧
  decodeWord 0xF265 = .ok (.loadRegs 2)

/-- Decoding the word of a well-formed instruction gives the instruction back, for all 34 and every operand (R92, R95). -/
def Obligations.DecodeOfEncode : Prop :=
  ∀ i : Instr, i.wellFormed = true → decodeWord (encode i) = .ok i

/-- A word that decodes is the word of its instruction, which is well-formed: no bit of a word is dropped (R92, R95). -/
def Obligations.EncodeOfDecode : Prop :=
  ∀ (w : Word) (i : Instr), decodeWord w = .ok i → i.wellFormed = true ∧ encode i = w

/-- A word decodes to an instruction of row `r` exactly when its masked bits are the row's (R96, a consequence the
spec draws from R95), and no word satisfies two rows. -/
def Obligations.WordMatchesItsRowOnly : Prop :=
  (∀ r ∈ opcodeRows, ∀ w : Word,
    r.matches w = true ↔ ∃ i, decodeWord w = .ok i ∧ i.rowNumber = r.number) ∧
  ∀ r ∈ opcodeRows, ∀ q ∈ opcodeRows, ∀ w : Word, r.matches w = true → q.matches w = true → r = q

/-- The decoder rejects exactly the words R98 lists, each by its own name; that such a word is illegal is the spec's
decision D8. -/
def Obligations.IllegalWordsAreTheListedOnes : Prop :=
  ∀ w : Word, decodeWord w = .error (.illegalOpcode w) ↔ IllegalWord w.toNat

/-! ### The cycle and the step -/

/-- A step at a running state in step 2 of an iteration with a cycle due, whose word at `pc` decodes to a well-formed
instruction, is `exec` of it at the state with `pc` advanced; then phase 5 when `TIMER_PER_CYCLE` is true and nothing
faulted (R122 to R126), and the instruction accumulator advanced by one interval (R257), after a cycle that faults too,
as R253 is written (an inference of the model's, notes/assumptions/16.md). `phase` is the model's own
(notes/assumptions/6.md). -/
def Obligations.StepRunsDecodedInstruction : Prop :=
  ∀ (s t : State) (i : Instr), s.run = .running → s.phase = .cycles →
    s.lastInstructionTick + s.cfg.instrInterval ≤ s.now → s.pc.toNat + 2 ≤ Config.memSize →
    decodeWord (wordOfBytes (s.readByte s.pc.toNat) (s.readByte (s.pc.toNat + 1))) = .ok i →
    i.wellFormed = true → exec i { s with pc := s.pc + 2 } = .next t →
    step s = .next
      { t with
        dt := if s.cfg.timerPerCycle = true ∧ t.run = .running then countDown t.dt else t.dt
        st := if s.cfg.timerPerCycle = true ∧ t.run = .running then countDown t.st else t.st
        lastInstructionTick := s.lastInstructionTick + s.cfg.instrInterval
        phase := .cycles }

/-- A word placed at `pc` that decodes is what the next step runs, from any state and so from reset: `exec` of its
instruction with `pc` advanced, then phase 5, then the accumulator advanced (R257), after a cycle that faults too, as
R253 is written (an inference of the model's, notes/assumptions/16.md). A placement stands for the load and the start of
the loop (notes/assumptions/15.md). -/
def Obligations.PlacedWordIsTheNextInstruction : Prop :=
  ∀ (s : State) (w : Nat) (i : Instr), Memory.wf s.cfg.fontTable s.mem → s.pc.toNat + 2 ≤ Config.memSize →
    w < 65536 → decodeTableWord 16 w = some i →
    ∃ p t, p = s.withFetchWord 16 w ∧ exec i { p with pc := s.pc + 2 } = .next t ∧
      step p = .next { t.endCycle with lastInstructionTick := s.lastInstructionTick + s.cfg.instrInterval }

/-- A fetch whose second byte is outside memory faults with the lowest address outside (R122; that it is a fault is
decision D7), and changes nothing else in the cycle (R128). The accumulator advances as R253 writes it
(notes/assumptions/16.md). -/
def Obligations.FetchOutsideMemoryFaults : Prop :=
  ∀ s : State, s.run = .running → s.phase = .cycles →
    s.lastInstructionTick + s.cfg.instrInterval ≤ s.now → 0xFFF ≤ s.pc.toNat →
    step s = .next { s with
      run := .faulted (.addressOutOfRange (max s.pc.toNat 4096))
      lastInstructionTick := s.lastInstructionTick + s.cfg.instrInterval }

/-- A word that no row matches faults at decode with the word as information and `pc` left at the word (R297; decision
D8), and changes nothing else in the cycle (R128; notes/assumptions/16.md for the accumulator). -/
def Obligations.IllegalWordFaults : Prop :=
  ∀ s : State, s.run = .running → s.phase = .cycles →
    s.lastInstructionTick + s.cfg.instrInterval ≤ s.now → s.pc.toNat + 2 ≤ Config.memSize →
    IllegalWord (s.readWord s.pc.toNat).toNat →
    step s = .next { s with
      run := .faulted (.illegalOpcode (s.readWord s.pc.toNat))
      lastInstructionTick := s.lastInstructionTick + s.cfg.instrInterval }

/-- A fault is precise (R128, R302; decisions D7, D8): a cycle that faults leaves every field as it was but `run`, and
the cause is that of R297 or R298. -/
def Obligations.FaultedCycleChangesOnlyRun : Prop :=
  ∀ (s t : State) (c : Cause), s.run = .running → instructionCycle s = .next t → t.run = .faulted c →
    t = { s with run := .faulted c } ∧
    match c with
    | .illegalOpcode w => w = s.readWord s.pc.toNat ∧ IllegalWord w.toNat
    | .addressOutOfRange a =>
      4096 ≤ a ∧ (a = max s.pc.toNat 4096 ∧ 0xFFE < s.pc.toNat ∨
        ∃ i, decodeWord (s.readWord s.pc.toNat) = .ok i ∧ accessLen i ≠ 0 ∧
          4096 < s.i.toNat + accessLen i ∧ a = max s.i.toNat 4096)

/-- Of the scheduler's and the host's state a cycle reads nothing and writes nothing: run with any other values of the
accumulators, the feed, the frames and the model's clock, it does the same and leaves them alone; the keys it only
reads, to `REPORTS` it only appends, `run` it changes to a fault only; and outside a running state there is no cycle
(R120, R42). -/
def Obligations.CycleIsBlindToTheScheduler : Prop :=
  ∀ (s t : State), instructionCycle s = .next t →
    (∀ (a b c n : Nat) (q : List InputEvent) (closed l : Bool) (fr cf : List Nat) (p : Phase),
      instructionCycle { s with lastInstructionTick := a, lastRenderTick := b, lastTimerTick := c, now := n, inq := q,
                                inqClosed := closed, loaded := l, frames := fr, clockFeed := cf, phase := p } =
        .next { t with lastInstructionTick := a, lastRenderTick := b, lastTimerTick := c, now := n, inq := q,
                       inqClosed := closed, loaded := l, frames := fr, clockFeed := cf, phase := p }) ∧
    t.key = s.key ∧ t.cfg = s.cfg ∧ s.reports <+: t.reports ∧
    (t.run = s.run ∨ ∃ c, t.run = .faulted c) ∧
    (s.run ≠ .running → ∀ u, step s ≠ .next u)

/-- Every cycle finishes and every running state has a next one, once a load has made the start of the loop possible
(R332): nothing blocks, not even `FX0A` (R131). -/
def Obligations.RunningCoreAlwaysSteps : Prop :=
  ∀ s : State, s.run = .running → (s.phase = .boot → s.loaded = true) → ∃ t, step s = .next t

/-! ### Whole-machine rules over all instructions -/

/-- How every instruction leaves `pc`, with `pc0` the address it was fetched from (R27, a table the spec derives from its
rules): jumps, the return, skips, the key wait, and `pc0 + 2` for every other; `pc0` when it faults. -/
def Obligations.PcAfterEveryInstruction : Prop :=
  ∀ (i : Instr) (s t : State), s.run = .running → exec i { s with pc := s.pc + 2 } = .next t →
    (t.run ≠ .running → t.pc = s.pc) ∧
    (t.run = .running →
      match i with
      | .jp nnn | .call nnn => t.pc.toNat = nnn.toNat
      | .jpV0 nnn => t.pc.toNat = nnn.toNat + (s.reg 0).toNat
      | .ret => (s.sp = 0 → t.pc = s.pc + 2) ∧ ∀ j : Fin 16, s.sp.val = j.val + 1 → t.pc = s.stack[j]
      | .seImm x kk => t.pc = s.pc + if s.reg x = kk then 4 else 2
      | .sneImm x kk => t.pc = s.pc + if s.reg x ≠ kk then 4 else 2
      | .seReg x y => t.pc = s.pc + if s.reg x = s.reg y then 4 else 2
      | .sneReg x y => t.pc = s.pc + if s.reg x ≠ s.reg y then 4 else 2
      | .skp x => t.pc = s.pc + if ∃ k : Fin 16, (s.reg x).toNat = k.val ∧ s.key[k] = true then 4 else 2
      | .sknp x => t.pc = s.pc + if ∃ k : Fin 16, (s.reg x).toNat = k.val ∧ s.key[k] = true then 2 else 4
      | .ldVxK _ => t.pc = if ∃ k : Fin 16, s.key[k] = true then s.pc + 2 else s.pc
      | _ => t.pc = s.pc + 2)

/-- A general register that an instruction's rule does not name as a destination holds what it held: in particular `VF`,
outside the six instructions of R24 and those whose `X` is 15 (R21, R24; the spec derives R21 from its rules). -/
def Obligations.OnlyDestinationRegistersChange : Prop :=
  ∀ (i : Instr) (s t : State) (r : Reg), exec i s = .next t → r ∉ destRegs i → t.reg r = s.reg r

/-- No byte of memory changes but those `FX33` and `FX55` write from `I` on (R61, R71). -/
def Obligations.OnlyStoresChangeMemory : Prop :=
  ∀ (i : Instr) (s t : State) (a : Nat), Memory.wf s.cfg.fontTable s.mem → exec i s = .next t →
    ¬ (s.i.toNat ≤ a ∧ a < s.i.toNat + storeLen i) → t.readByte a = s.readByte a

/-- Each special register has its own writers: `I` (R25), `sp` and the call stack (R29, R30), `DT` (R32), `ST` (R33),
the display and its dirty flag (R36, R38), `REPORTS` (R43), and the model's own count of the random bytes drawn
(notes/assumptions/1.md); every other instruction leaves it alone. An instruction that faults leaves all of them alone,
and everything else but `pc` and `run` (R128, R302; decision D7). -/
def Obligations.SpecialStateHasItsWritersOnly : Prop :=
  ∀ (i : Instr) (s t : State), exec i s = .next t →
    (t.i ≠ s.i → (∃ nnn, i = .ldI nnn) ∨ ∃ x, i = .addI x ∨ i = .ldF x ∨ i = .storeRegs x ∨ i = .loadRegs x) ∧
    (t.sp ≠ s.sp → i = .ret ∨ ∃ nnn, i = .call nnn) ∧
    (t.stack ≠ s.stack → ∃ nnn, i = .call nnn) ∧
    (t.dt ≠ s.dt → ∃ x, i = .ldDtVx x) ∧
    (t.st ≠ s.st → ∃ x, i = .ldStVx x) ∧
    (t.disp ≠ s.disp ∨ t.drawPending ≠ s.drawPending → i = .cls ∨ ∃ x y n, i = .drw x y n) ∧
    (t.draws ≠ s.draws → ∃ x kk, i = .rnd x kk) ∧
    (t.reports ≠ s.reports → i = .ret ∨ ∃ nnn, i = .call nnn) ∧
    (s.run = .running → ∀ c, t.run = .faulted c → t = { s with pc := s.pc - 2, run := .faulted c })

/-- An instruction that reaches memory above address 4095 has no effect: it raises `AddressOutOfRange` with the lowest
such address, and `pc` goes back to the instruction (R62, R190, R298, R302; decision D7). -/
def Obligations.OutOfRangeInstructionTraps : Prop :=
  ∀ (i : Instr) (s : State), accessLen i ≠ 0 → 4096 < s.i.toNat + accessLen i →
    exec i s = .next { s with pc := s.pc - 2, run := .faulted (.addressOutOfRange (max s.i.toNat 4096)) }

/-! ### Control transfer -/

/-- `1NNN` (R142): its words; `pc` is `NNN`, odd or even, and nothing else changes; a jump to its own address leaves the
whole state as it was before the cycle's advance; after a jump to 0xFFF the next cycle faults at fetch with address
0x1000 and changes nothing else (R122, R128; that it is a fault is decision D7, notes/assumptions/20.md). -/
def Obligations.JumpSetsPc : Prop :=
  (∀ nnn : BitVec 12, HasWord (.jp nnn) (0x1000 + nnn.toNat)) ∧
  (∀ (nnn : BitVec 12) (s : State), ∃ t, exec (.jp nnn) s = .next t ∧ t.pc.toNat = nnn.toNat ∧ OnlyPc s t ∧
    (nnn.toNat = 0xFFF → instructionCycle t = .next { t with run := .faulted (.addressOutOfRange 0x1000) })) ∧
  ∀ (nnn : BitVec 12) (s : State), s.pc.toNat = nnn.toNat → exec (.jp nnn) { s with pc := s.pc + 2 } = .next s

/-- `BNNN` (R144; that the sum is not cut to 12 bits is decision D15): `pc` is the exact sum `NNN + V0`. -/
def Obligations.OffsetJumpAddsV0 : Prop :=
  ∀ (nnn : BitVec 12) (s : State), ∃ t, exec (.jpV0 nnn) s = .next t ∧
    t.pc.toNat = nnn.toNat + (s.reg 0).toNat ∧ OnlyPc s t

/-- `2NNN` (R143, R292): its words; with fewer than 16 return addresses held, the address of the instruction after the
call goes into slot `sp` and `sp` rises by one; with 16 held the push is dropped and `StackOverflow` is reported, and
the next return pops the address of the call before; the jump is taken in both cases. Nothing else changes. -/
def Obligations.CallPushesAndJumps : Prop :=
  (∀ nnn : BitVec 12, HasWord (.call nnn) (0x2000 + nnn.toNat)) ∧
  ∀ (nnn : BitVec 12) (s : State), ∃ t, exec (.call nnn) s = .next t ∧ t.pc.toNat = nnn.toNat ∧
    (∀ j : Fin 16, s.sp.val = j.val → t.sp.val = s.sp.val + 1 ∧ t.stack[j] = s.pc ∧
      (∀ k : Fin 16, k ≠ j → t.stack[k] = s.stack[k]) ∧ t.reports = s.reports) ∧
    (s.sp.val = 16 → t.sp = s.sp ∧ t.stack = s.stack ∧ t.reports = s.reports ++ [.stackOverflow] ∧
      ∃ u, exec .ret t = .next u ∧ u.pc = s.stack[15] ∧ u.sp.val = 15) ∧
    SameRegsExcept [] s t ∧ SameMemory s t ∧
    t = { s with pc := t.pc, sp := t.sp, stack := t.stack, reports := t.reports }

/-- `00EE` (R141): the top return address is popped to `pc`; on an empty stack `StackUnderflow` is reported and the
machine goes on with the next instruction (decision D13). Nothing else changes, the popped slot included. -/
def Obligations.ReturnPopsOrReports : Prop :=
  ∀ s : State, ∃ t, exec .ret s = .next t ∧
    (∀ j : Fin 16, s.sp.val = j.val + 1 → t.pc = s.stack[j] ∧ t.sp.val = j.val ∧ t.reports = s.reports) ∧
    (s.sp = 0 → t.pc = s.pc ∧ t.sp = 0 ∧ t.reports = s.reports ++ [.stackUnderflow]) ∧
    SameRegsExcept [] s t ∧ SameMemory s t ∧ t = { s with pc := t.pc, sp := t.sp, reports := t.reports }

/-- A call with room, then anything that leaves the call stack alone and reaches a return, comes back to the instruction
after the call with the stack as deep as before and every slot below unchanged (R31, R141, R143, R149). -/
def Obligations.ReturnComesBackAfterCall : Prop :=
  ∀ (nnn : BitVec 12) (s c b : State), s.sp.val < 16 → exec (.call nnn) s = .next c →
    b.sp = c.sp → b.stack = c.stack →
    ∃ t, exec .ret b = .next t ∧ t.pc = s.pc ∧ t.sp = s.sp ∧
      (∀ k : Fin 16, k.val < s.sp.val → t.stack[k] = s.stack[k]) ∧ t = { b with pc := s.pc, sp := s.sp }

/-- `3XKK`, `4XKK`, `5XY0`, `9XY0` (R145 to R148): their words; `pc` moves on by 2 exactly when the comparison of the
two bytes holds, and nothing else changes. -/
def Obligations.CompareSkips : Prop :=
  (∀ (x y : Reg) (kk : Byte),
    HasWord (.seImm x kk) (0x3000 + 0x100 * x.val + kk.toNat) ∧
    HasWord (.sneImm x kk) (0x4000 + 0x100 * x.val + kk.toNat) ∧
    HasWord (.seReg x y) (0x5000 + 0x100 * x.val + 0x10 * y.val) ∧
    HasWord (.sneReg x y) (0x9000 + 0x100 * x.val + 0x10 * y.val)) ∧
  ∀ (x y : Reg) (kk : Byte) (s : State),
    (∃ t, exec (.seImm x kk) s = .next t ∧
      t.pc = (if (s.reg x).toNat = kk.toNat then s.pc + 2 else s.pc) ∧ OnlyPc s t) ∧
    (∃ t, exec (.sneImm x kk) s = .next t ∧
      t.pc = (if (s.reg x).toNat = kk.toNat then s.pc else s.pc + 2) ∧ OnlyPc s t) ∧
    (∃ t, exec (.seReg x y) s = .next t ∧
      t.pc = (if (s.reg x).toNat = (s.reg y).toNat then s.pc + 2 else s.pc) ∧ OnlyPc s t) ∧
    (∃ t, exec (.sneReg x y) s = .next t ∧
      t.pc = (if (s.reg x).toNat = (s.reg y).toNat then s.pc else s.pc + 2) ∧ OnlyPc s t)

/-! ### Load, arithmetic, logic, shift, random -/

/-- `6XKK`, `7XKK`, `8XY0` (R162, R163, R164): their words; `VX` is the immediate, the sum modulo 256 (no flag), the
other register; every other register, `VF` too, and everything else is as before. -/
def Obligations.LoadsAndImmediateAdd : Prop :=
  (∀ (x y : Reg) (kk : Byte),
    HasWord (.ldImm x kk) (0x6000 + 0x100 * x.val + kk.toNat) ∧
    HasWord (.addImm x kk) (0x7000 + 0x100 * x.val + kk.toNat) ∧
    HasWord (.ldReg x y) (0x8000 + 0x100 * x.val + 0x10 * y.val)) ∧
  ∀ (x y : Reg) (kk : Byte) (s : State),
    (∃ t, exec (.ldImm x kk) s = .next t ∧ t.reg x = kk ∧ OnlyRegs [x] s t) ∧
    (∃ t, exec (.addImm x kk) s = .next t ∧
      (t.reg x).toNat = ((s.reg x).toNat + kk.toNat) % 256 ∧ OnlyRegs [x] s t) ∧
    (∃ t, exec (.ldReg x y) s = .next t ∧ t.reg x = s.reg y ∧ OnlyRegs [x] s t)

/-- `8XY1`, `8XY2`, `8XY3` (R165 to R167; that `VF` is left alone is decision D11): bit by bit on all 8 bits. -/
def Obligations.LogicIsBitByBit : Prop :=
  ∀ (x y : Reg) (s : State),
    (∃ t, exec (.orReg x y) s = .next t ∧ OnlyRegs [x] s t ∧ ∀ k, k < 8 →
      (t.reg x).getLsbD k = ((s.reg x).getLsbD k || (s.reg y).getLsbD k)) ∧
    (∃ t, exec (.andReg x y) s = .next t ∧ OnlyRegs [x] s t ∧ ∀ k, k < 8 →
      (t.reg x).getLsbD k = ((s.reg x).getLsbD k && (s.reg y).getLsbD k)) ∧
    (∃ t, exec (.xorReg x y) s = .next t ∧ OnlyRegs [x] s t ∧ ∀ k, k < 8 →
      (t.reg x).getLsbD k = Bool.xor ((s.reg x).getLsbD k) ((s.reg y).getLsbD k))

/-- `8XY4` (R168): the sum modulo 256, and `VF` the carry-out; with `X = 15` the register ends holding the carry
(decision D10), with `Y = 15` the old flag is added. -/
def Obligations.AddGivesSumAndCarry : Prop :=
  ∀ (x y : Reg) (s : State), ∃ t, exec (.addReg x y) s = .next t ∧
    (t.reg 15).toNat = ((s.reg x).toNat + (s.reg y).toNat) / 256 ∧
    (x ≠ 15 → (t.reg x).toNat = ((s.reg x).toNat + (s.reg y).toNat) % 256) ∧ OnlyRegs [x, 15] s t

/-- `8XY5` and `8XY7` (R169; R171 with decision D16): the difference is stored only when it is positive, `VF` says
whether it was; otherwise `VX` keeps its value. With `X = 15` the register ends holding the flag (decision D10). -/
def Obligations.SubtractStoresOnlyPositiveDifference : Prop :=
  ∀ (x y : Reg) (s : State),
    (∃ t, exec (.subReg x y) s = .next t ∧ OnlyRegs [x, 15] s t ∧
      t.reg 15 = (if (s.reg y).toNat < (s.reg x).toNat then 1 else 0) ∧
      (x ≠ 15 → (t.reg x).toNat =
        if (s.reg y).toNat < (s.reg x).toNat then (s.reg x).toNat - (s.reg y).toNat else (s.reg x).toNat)) ∧
    (∃ t, exec (.subnReg x y) s = .next t ∧ OnlyRegs [x, 15] s t ∧
      t.reg 15 = (if (s.reg x).toNat < (s.reg y).toNat then 1 else 0) ∧
      (x ≠ 15 → (t.reg x).toNat =
        if (s.reg x).toNat < (s.reg y).toNat then (s.reg y).toNat - (s.reg x).toNat else (s.reg x).toNat))

/-- `8XY6` and `8XYE` (R170, R172): half rounded down and the old bit 0; double modulo 256 and the old bit 7; the field
`Y` has no effect. With `X = 15` the register ends holding the flag (decision D10). -/
def Obligations.ShiftsGiveShiftedOutBit : Prop :=
  ∀ (x y : Reg) (s : State),
    (∃ t, exec (.shr x y) s = .next t ∧ (t.reg 15).toNat = (s.reg x).toNat % 2 ∧
      (x ≠ 15 → (t.reg x).toNat = (s.reg x).toNat / 2) ∧ OnlyRegs [x, 15] s t) ∧
    (∃ t, exec (.shl x y) s = .next t ∧ (t.reg 15).toNat = (s.reg x).toNat / 128 ∧
      (x ≠ 15 → (t.reg x).toNat = 2 * (s.reg x).toNat % 256) ∧ OnlyRegs [x, 15] s t)

/-- `CXKK` (R173, R174): `VX` is the drawn byte ANDed with `KK`; every bit that is 0 in `KK` is 0, and with `KK = 0xFF`
it is the drawn byte itself. The byte is a free value (notes/assumptions/1.md), and the next execution draws another. -/
def Obligations.RandomByteIsMasked : Prop :=
  ∀ (x : Reg) (kk : Byte) (s : State), ∃ t, exec (.rnd x kk) s = .next t ∧
    (∀ k, k < 8 → (t.reg x).getLsbD k = ((Config.randomByte s.draws).getLsbD k && kk.getLsbD k)) ∧
    (kk = 0xFF → t.reg x = Config.randomByte s.draws) ∧ t.draws = s.draws + 1 ∧
    SameRegsExcept [x] s t ∧ SameMemory s t ∧ t = { s with v := t.v, draws := t.draws }

/-! ### Address register and memory -/

/-- `ANNN`, `FX1E`, `FX29` (R191; R192 with decisions D11, D14, D27; R193 with decisions D18, D28): `I` is `NNN`, the sum
modulo 65536, the address of the glyph of the whole byte; nothing else changes, `VF` included. -/
def Obligations.IndexRegisterLoads : Prop :=
  ∀ (nnn : BitVec 12) (x : Reg) (s : State),
    (∃ t, exec (.ldI nnn) s = .next t ∧ t.i.toNat = nnn.toNat ∧ OnlyI s t) ∧
    (∃ t, exec (.addI x) s = .next t ∧ t.i.toNat = (s.i.toNat + (s.reg x).toNat) % 65536 ∧ OnlyI s t) ∧
    (∃ t, exec (.ldF x) s = .next t ∧ t.i.toNat = 0x50 + 5 * (s.reg x).toNat ∧ OnlyI s t)

/-- `FX33` in range (R194; the order of the digits is general knowledge G5): three decimal digits, hundreds at `I`, whose
value is `VX`; `I`, every register and every other byte of memory are as before. -/
def Obligations.DecimalDigitsAreStored : Prop :=
  ∀ (x : Reg) (s : State), Memory.wf s.cfg.fontTable s.mem → s.i.toNat + 3 ≤ 4096 →
    ∃ t, exec (.ldB x) s = .next t ∧
      (t.readByte s.i.toNat).toNat ≤ 2 ∧ (t.readByte (s.i.toNat + 1)).toNat ≤ 9 ∧
      (t.readByte (s.i.toNat + 2)).toNat ≤ 9 ∧
      100 * (t.readByte s.i.toNat).toNat + 10 * (t.readByte (s.i.toNat + 1)).toNat +
        (t.readByte (s.i.toNat + 2)).toNat = (s.reg x).toNat ∧
      SameMemoryOutside s.i.toNat 3 s t ∧ SameRegsExcept [] s t ∧ t = { s with mem := t.mem }

/-- `FX55` in range (R195, R197; the 16-bit wrap of `I` is decision D14): `V[r]` at `I + r` for `r` up to `X`, and `I`
advanced by `X + 1`; every register and every other byte of memory is as before. -/
def Obligations.RegistersAreStored : Prop :=
  ∀ (x : Reg) (s : State), Memory.wf s.cfg.fontTable s.mem → s.i.toNat + x.val + 1 ≤ 4096 →
    ∃ t, exec (.storeRegs x) s = .next t ∧
      (∀ r : Reg, r ≤ x → t.readByte (s.i.toNat + r.val) = s.reg r) ∧
      t.i.toNat = s.i.toNat + x.val + 1 ∧
      SameMemoryOutside s.i.toNat (x.val + 1) s t ∧ SameRegsExcept [] s t ∧ t = { s with mem := t.mem, i := t.i }

/-- `FX65` in range (R196, R197): `V[r]` is the byte at `I + r` for `r` up to `X`, and `I` advanced by `X + 1`; every
higher register and all of memory is as before. -/
def Obligations.RegistersAreLoaded : Prop :=
  ∀ (x : Reg) (s : State), s.i.toNat + x.val + 1 ≤ 4096 →
    ∃ t, exec (.loadRegs x) s = .next t ∧
      (∀ r : Reg, r ≤ x → t.reg r = s.readByte (s.i.toNat + r.val)) ∧
      (∀ r : Reg, x < r → t.reg r = s.reg r) ∧
      t.i.toNat = s.i.toNat + x.val + 1 ∧ SameMemory s t ∧ t = { s with v := t.v, i := t.i }

/-- `FX55`, then, with `I` set back and whatever registers meanwhile, `FX65` of the same `X`: the registers up to `X` hold
what was stored (R195, R196, R197; R73). -/
def Obligations.StoredRegistersLoadBack : Prop :=
  ∀ (x : Reg) (s a b : State), Memory.wf s.cfg.fontTable s.mem → s.i.toNat + x.val + 1 ≤ 4096 →
    exec (.storeRegs x) s = .next a → b.mem = a.mem → b.cfg = a.cfg → b.i = s.i →
    ∃ t, exec (.loadRegs x) b = .next t ∧ (∀ r : Reg, r ≤ x → t.reg r = s.reg r) ∧ t.i = a.i

/-- A byte stored by `FX55` is what the very next fetch reads (R77, which the spec derives from R73): with `pc` at a
stored register pair, the fetched word is the two registers, the lower in the high byte. -/
def Obligations.FetchSeesStoredBytes : Prop :=
  ∀ (x r : Reg) (s t : State), Memory.wf s.cfg.fontTable s.mem → s.i.toNat + x.val + 1 ≤ 4096 → r < x →
    exec (.storeRegs x) s = .next t →
    ∀ q : Reg, q.val = r.val + 1 →
      ({ t with pc := s.i + BitVec.ofNat 16 r.val } : State).fetchWord = wordOfBytes (s.reg r) (s.reg q)

/-! ### Display -/

/-- `00E0` (R212): its word; every cell is 0 and the dirty flag is set; nothing else changes. -/
def Obligations.ClearTurnsEveryCellOff : Prop :=
  HasWord .cls 0x00E0 ∧
  ∀ s : State, ∃ t, exec .cls s = .next t ∧ (∀ y x, cellAt t.disp y x = false) ∧ t.drawPending = true ∧
    SameRegsExcept [] s t ∧ SameMemory s t ∧ t = { s with disp := t.disp, drawPending := true }

/-- `DXYN` in range (R213, R214; bit order decision D19, `N = 0` decision D21, `X = 15` decision D10, dirty flag decision
D22): a cell ends lit exactly when it was lit or a set sprite bit lands on it, and not both; `VF` is 1 when some lit cell
was turned off and 0 otherwise; the dirty flag is set; nothing else changes. -/
def Obligations.DrawXorsTheSprite : Prop :=
  ∀ (x y : Reg) (n : Nat) (s : State), (Instr.drw x y n).wellFormed = true → n = 0 ∨ s.i.toNat + n ≤ 4096 →
    ∃ t, exec (.drw x y n) s = .next t ∧
      (∀ cy cx, cellAt t.disp cy cx = true ↔
        ¬ (cellAt s.disp cy cx = true ↔ SpriteHits s x y n cy cx)) ∧
      ((∃ cy cx, cellAt s.disp cy cx = true ∧ cellAt t.disp cy cx = false) → t.reg 15 = 1) ∧
      ((∀ cy cx, cellAt s.disp cy cx = true → cellAt t.disp cy cx = true) → t.reg 15 = 0) ∧
      t.drawPending = true ∧ SameRegsExcept [15] s t ∧ SameMemory s t ∧
      t = { s with v := t.v, disp := t.disp, drawPending := true }

/-- Drawing the same sprite bytes twice at the same coordinates restores every cell, and the second draw sets `VF` exactly
when the first turned a cell on (R215, which the spec derives from R213). `b` is any state with the display that the
first draw left and with the sprite, `I` and the two coordinates that the first draw had; where a coordinate is in `VF`,
which the first draw writes, `b` has it back. -/
def Obligations.DrawingTwiceRestoresTheDisplay : Prop :=
  ∀ (x y : Reg) (n : Nat) (s a b : State), (Instr.drw x y n).wellFormed = true → n = 0 ∨ s.i.toNat + n ≤ 4096 →
    exec (.drw x y n) s = .next a → b.disp = a.disp → b.i = s.i → b.reg x = s.reg x → b.reg y = s.reg y →
    (∀ row, row < n → b.readByte (s.i.toNat + row) = s.readByte (s.i.toNat + row)) →
    ∃ t, exec (.drw x y n) b = .next t ∧ t.disp = s.disp ∧
      (t.reg 15 = 1 ↔ ∃ cy cx, cellAt s.disp cy cx = false ∧ cellAt a.disp cy cx = true)

/-- The display changes only in a step that runs a cycle of `00E0` or `DXYN`, so a snapshot between two steps sees a whole
number of display instructions (R74, R271). -/
def Obligations.DisplayChangesByWholeInstructions : Prop :=
  ∀ s t : State, step s = .next t → t.snapshot ≠ s.snapshot →
    ∃ i u, decodeWord (s.readWord s.pc.toNat) = .ok i ∧ exec i { s with pc := s.pc + 2 } = .next u ∧
      t.snapshot = u.disp ∧ (i = .cls ∨ ∃ x y n, i = .drw x y n)

/-! ### Keys and timers -/

/-- `EX9E` and `EXA1` (R231, R232, R35): the skip depends on key `VX` alone; a code of 16 or more is a key that is not
pressed, so `EX9E` never skips on it and `EXA1` always does. Nothing else changes. -/
def Obligations.KeySkips : Prop :=
  ∀ (x : Reg) (s : State),
    ∃ p q, exec (.skp x) s = .next p ∧ exec (.sknp x) s = .next q ∧ OnlyPc s p ∧ OnlyPc s q ∧
      (∀ k : Fin 16, (s.reg x).toNat = k.val →
        p.pc = (if s.key[k] = true then s.pc + 2 else s.pc) ∧ q.pc = (if s.key[k] = true then s.pc else s.pc + 2)) ∧
      (16 ≤ (s.reg x).toNat → p.pc = s.pc ∧ q.pc = s.pc + 2)

/-- `FX0A` (R233, R234): the lowest pressed key goes to `VX` and the program goes on; with no key down no register changes
and `pc` is back at the instruction. Nothing else changes. -/
def Obligations.KeyWaitTakesLowestKeyOrStalls : Prop :=
  ∀ (x : Reg) (s : State), ∃ t, exec (.ldVxK x) s = .next t ∧
    (∀ k : Fin 16, s.key[k] = true → (∀ j : Fin 16, j < k → s.key[j] = false) →
      (t.reg x).toNat = k.val ∧ OnlyRegs [x] s t) ∧
    ((∀ k : Fin 16, s.key[k] = false) → t.pc = s.pc - 2 ∧ OnlyPc s t)

/-- `FX07`, `FX15`, `FX18` (R235, R236, R237; which does what is general knowledge G2): `VX` is `DT`, `DT` is `VX`,
`ST` is `VX`; nothing else changes. -/
def Obligations.TimerRegistersMove : Prop :=
  ∀ (x : Reg) (s : State),
    (∃ t, exec (.ldVxDt x) s = .next t ∧ t.reg x = s.dt ∧ OnlyRegs [x] s t) ∧
    (∃ t, exec (.ldDtVx x) s = .next t ∧ t.dt = s.reg x ∧ SameRegsExcept [] s t ∧ SameMemory s t ∧
      t = { s with dt := t.dt }) ∧
    (∃ t, exec (.ldStVx x) s = .next t ∧ t.st = s.reg x ∧ SameRegsExcept [] s t ∧ SameMemory s t ∧
      t = { s with st := t.st })

/-- Step 4 of an iteration (R259), reached from step 2 when no cycle and no frame-ready signal is due or from a tick or
signal before it: while a tick is due, a step takes one from each timer that is above 0, leaves one at 0 at 0, advances
the accumulator by one interval, and changes nothing else. `phase` is the model's own (notes/assumptions/6.md). -/
def Obligations.DueTickCountsBothTimersDown : Prop :=
  ∀ s : State, s.run = .running →
    s.phase = .ticks ∨
      (s.phase = .cycles ∧ s.now < s.lastInstructionTick + s.cfg.instrInterval ∧
        (s.drawPending = true → s.now < s.lastRenderTick + s.cfg.renderInterval)) →
    s.lastTimerTick + s.cfg.timerInterval ≤ s.now →
    ∃ t, step s = .next t ∧ t.dt.toNat = s.dt.toNat - 1 ∧ t.st.toNat = s.st.toNat - 1 ∧
      t = { s with
        dt := t.dt, st := t.st, lastTimerTick := s.lastTimerTick + s.cfg.timerInterval, phase := .ticks }

/-! ### Scheduler -/

/-- Step 2 of an iteration (R257, R262 a): while cycles are due by the reading `now`, the next steps run exactly one each,
with no key, reading or other accumulator moving between them, and the accumulator advances by one interval for each
(R253; after a last one that faults too, an inference of the model's, notes/assumptions/16.md). -/
def Obligations.BurstRunsEveryDueCycle : Prop :=
  ∀ (k : Nat) (s t : State), s.phase = .cycles →
    s.lastInstructionTick + k * s.cfg.instrInterval ≤ s.now → core.run k s = .next t →
    t.phase = .cycles ∧ t.lastInstructionTick = s.lastInstructionTick + k * s.cfg.instrInterval ∧
      t.now = s.now ∧ t.key = s.key ∧ t.inq = s.inq ∧ t.lastTimerTick = s.lastTimerTick ∧
      t.lastRenderTick = s.lastRenderTick ∧ t.frames = s.frames ∧ t.cfg = s.cfg

/-- A burst that does not fault completes: from a running state with `k` cycles due, the first `k` steps either all
run, or reach a faulted state on the way (R257, R264). -/
def Obligations.BurstCompletesOrFaults : Prop :=
  ∀ (k : Nat) (s : State), s.run = .running → s.phase = .cycles →
    s.lastInstructionTick + k * s.cfg.instrInterval ≤ s.now →
    (∃ t, core.run k s = .next t) ∨
      ∃ j t c, j < k ∧ core.run j s = .next t ∧ t.run = .faulted c

/-- Step 3 (R258): when a draw is pending, no cycle is due and a render interval has passed, the step is one frame-ready
signal: `FRAMES` has one more event, the accumulator advances by one interval, the dirty flag is cleared, and step 4
follows. That the event is kept as the clock reading is the model's choice (notes/assumptions/19.md; the signal carries
no data, and R44 lets a model keep the times); `phase` is the model's own (notes/assumptions/6.md). No step signals a
frame when no draw is pending. -/
def Obligations.FrameSignalFollowsADraw : Prop :=
  (∀ s : State, s.run = .running → s.phase = .cycles → s.now < s.lastInstructionTick + s.cfg.instrInterval →
    s.drawPending = true → s.lastRenderTick + s.cfg.renderInterval ≤ s.now →
    step s = .next { s with
      frames := s.frames ++ [s.now], lastRenderTick := s.lastRenderTick + s.cfg.renderInterval
      drawPending := false, phase := .ticks }) ∧
  ∀ s t : State, step s = .next t → s.drawPending = false → t.frames = s.frames

/-- The start of every iteration, the first one included (R253, R254, R256; codes of 16 and above decision D23, queued events
before closure decision D24). The head event is taken and applied to its own key only; a code of 16 or more changes no
key. With the feed empty and closed the core stops and nothing else changes. With the feed empty and open step 1 does
nothing and does not wait: the clock is read and step 2 begins, in the same step with its first cycle when one is due
(notes/assumptions/6.md; after a cycle that faults the accumulator advances as R253 is written, 16.md). `s₀` is `s`, or
for the first iteration `s` after the start of the loop (R255); what is read with no reading listed is the model's choice
(notes/assumptions/5.md). -/
def Obligations.IterationTakesOneEventStopsOrGoesOn : Prop :=
  (∀ (s s₀ : State) (k : Nat) (rest : List InputEvent), IterationStart s s₀ → s.inq = .press k :: rest →
    ∃ t, step s = .next t ∧ t.inq = rest ∧ (∀ j : Fin 16, t.key[j] = (s.key[j] || decide (j.val = k))) ∧
      t = { s₀ with
        inq := rest, key := t.key, now := s₀.iterationReading, clockFeed := s₀.clockFeed.tail, phase := .cycles }) ∧
  (∀ (s s₀ : State) (k : Nat) (rest : List InputEvent), IterationStart s s₀ → s.inq = .release k :: rest →
    ∃ t, step s = .next t ∧ t.inq = rest ∧ (∀ j : Fin 16, t.key[j] = (s.key[j] && !decide (j.val = k))) ∧
      t = { s₀ with
        inq := rest, key := t.key, now := s₀.iterationReading, clockFeed := s₀.clockFeed.tail, phase := .cycles }) ∧
  (∀ s s₀ : State, IterationStart s s₀ → s.inq = [] → s.inqClosed = true →
    step s = .next { s₀ with run := .stopped }) ∧
  ∀ s s₀ r : State, IterationStart s s₀ → s.inq = [] → s.inqClosed = false →
    r = { s₀ with now := s₀.iterationReading, clockFeed := s₀.clockFeed.tail, phase := .cycles } →
    (r.now < r.lastInstructionTick + r.cfg.instrInterval → step s = .next r) ∧
    (r.lastInstructionTick + r.cfg.instrInterval ≤ r.now → ∃ u, instructionCycle r = .next u ∧
      step s = .next { u with lastInstructionTick := r.lastInstructionTick + r.cfg.instrInterval, phase := .cycles })

/-- The clock reading never goes back (R14), and it stays the same through an iteration (R254): a step that changes it
starts the loop or a new iteration. -/
def Obligations.ClockNeverGoesBack : Prop :=
  ∀ s t : State, step s = .next t → s.now ≤ t.now ∧ (s.now ≠ t.now → s.phase = .boot ∨ IterationOver s)

/-- The start of the loop (R255, R332): it starts only after a successful load (decision D34; that there is no step before
is notes/assumptions/8.md); the three accumulators become the clock reading `t0`, so the first cycle is due no earlier
than `t0` plus one interval (decision D31). -/
def Obligations.LoopStartsFromOneReading : Prop :=
  (∀ s : State, s.run = .running → s.phase = .boot →
    (s.loaded = false → step s = .fault .notLoaded) ∧ (s.loaded = true → ∃ t, step s = .next t)) ∧
  ∀ (s t : State) (t₀ : Nat) (feed : List Nat), s.run = .running → s.phase = .boot → s.clockFeed = t₀ :: feed →
    s.now ≤ t₀ → step s = .next t →
    t.lastRenderTick = t₀ ∧ t.lastTimerTick = t₀ ∧
      (t.lastInstructionTick = t₀ ∨
        (t.lastInstructionTick = t₀ + s.cfg.instrInterval ∧ t₀ + s.cfg.instrInterval ≤ t.now))

/-- The catch-up invariant (R261, which the spec derives), with legal rates (R6, R273) and a loop that has started only
after a load (R332, decision D34): every step keeps it. -/
def Obligations.SchedulerInvariantKept : Prop :=
  ∀ s t : State, SchedInv s → step s = .next t → SchedInv t

/-- In every state the machine can reach with its host and its clock, when an iteration has nothing left to do, less than
one instruction interval and less than one timer interval is left over, and neither accumulator is ahead (R261). -/
def Obligations.ReachableIterationsEndCaughtUp : Prop :=
  ∀ s : State, Reachable s → IterationOver s →
    s.lastInstructionTick ≤ s.now ∧ s.now < s.lastInstructionTick + s.cfg.instrInterval ∧
      s.lastTimerTick ≤ s.now ∧ s.now < s.lastTimerTick + s.cfg.timerInterval

/-- Every step is one of the moves of the time-free view, which has moves only while `run = Running`, or has changed nothing
but the clock (R263, which the spec derives); and every endless run of the core, its host and its clock is, without its
clock, a run of the view, which is fair as long as the clock keeps advancing while the core runs. That it does is a
premise: R263 says the source assumes it (notes/assumptions/22.md). What holds of every fair run of the view holds of
the scheduler. -/
def Obligations.TimedRunsAreFairTimeFreeRuns : Prop :=
  (∀ s t : State, step s = .next t → (∃ k, TimeFreeMove s k t.untimed) ∨ t.untimed = s.untimed) ∧
  ∀ σ : Nat → State, TimedRun σ → ∃ κ, TimeFreeRun (fun n => (σ n).untimed) κ ∧
    (ClockAdvances σ → TimeFreeFair (fun n => (σ n).untimed) κ)

/-- The intervals are exact (R6, R251; decision D30): an interval times its rate is one second, and a legal timer rate is
60 per second (C11), in the model's unit of
time (notes/assumptions/4.md). -/
def Obligations.IntervalsAreExact : Prop :=
  ∀ c : Settings,
    c.instrInterval * c.instrHz.num = c.unitsPerSecond * c.instrHz.den ∧
    c.renderInterval * c.renderHz.num = c.unitsPerSecond * c.renderHz.den ∧
    c.timerInterval * c.timerHz.num = c.unitsPerSecond * c.timerHz.den ∧
    (c.legal → c.timerInterval * 60 = c.unitsPerSecond ∧
      0 < c.instrInterval ∧ 0 < c.renderInterval ∧ 0 < c.timerInterval)

/-! ### Invariants and outputs -/

/-- The processor's invariant (R47): every step keeps it. -/
def Obligations.ProcessorInvariantKept : Prop :=
  ∀ s t : State, ProcInv s → step s = .next t → ProcInv t

/-- Both invariants hold after reset. -/
def Obligations.InvariantsHoldAtReset : Prop := ProcInv State.reset ∧ SchedInv State.reset

/-- Both invariants hold in every state the machine can reach with its host and its clock (R47, R261). -/
def Obligations.ReachableStatesKeepInvariants : Prop := ∀ s : State, Reachable s → ProcInv s ∧ SchedInv s

/-- What never goes back (R47, R42): a closed feed stays closed, `REPORTS` and `FRAMES` only grow, the settings stay
(R273), a step happens only while running, and the step that stops the core finds the feed closed and empty (R256). -/
def Obligations.OutputsOnlyGrow : Prop :=
  ∀ s t : State, step s = .next t →
    s.run = .running ∧ (s.inqClosed = true → t.inqClosed = true) ∧ s.reports <+: t.reports ∧
      s.frames <+: t.frames ∧ t.frames.length ≤ s.frames.length + 1 ∧ t.cfg = s.cfg ∧
      (t.run = .stopped → s.inqClosed = true ∧ s.inq = [] ∧ t.inq = [])

/-! ### Reset, load, host -/

/-- The state after reset (R46; decisions D2 to D5, D20, D31, `t0` chosen 0, notes/assumptions/5.md): every register,
slot, key and cell zero or false, `pc` at 0x200, the font at 0x050 to 0x09F and every other byte 0, the feed and the
outputs empty, running. The font's bytes are those of the setting (R7), whatever they are. -/
def Obligations.ResetLeavesTheStatedValues : Prop :=
  (∀ r, State.reset.reg r = 0) ∧ State.reset.i = 0 ∧ State.reset.pc.toNat = 0x200 ∧ State.reset.sp = 0 ∧
  (∀ j : Fin 16, State.reset.stack[j] = 0) ∧ State.reset.dt = 0 ∧ State.reset.st = 0 ∧
  (∀ k : Fin 16, State.reset.key[k] = false) ∧ (∀ y x, cellAt State.reset.disp y x = false) ∧
  State.reset.drawPending = false ∧
  (∀ c : Settings, ∀ k : Fin 80, ({ State.reset with cfg := c } : State).readByte (0x50 + k.val) = c.fontTable[k]) ∧
  (∀ a, ¬ (0x50 ≤ a ∧ a ≤ 0x9F) → State.reset.readByte a = 0) ∧
  State.reset.inq = [] ∧ State.reset.inqClosed = false ∧ State.reset.run = .running ∧
  State.reset.reports = [] ∧ State.reset.frames = [] ∧
  State.reset.lastInstructionTick = State.reset.lastTimerTick ∧
  State.reset.lastInstructionTick = State.reset.lastRenderTick

/-- Construction then `init()` is the reset state with the machine's settings, whatever its font: memory zero, then the
font copied to 0x050 (R330, R331; the values R330 marks as decisions D2 to D5 among them). -/
def Obligations.ConstructThenInitIsReset : Prop :=
  ∀ c : Settings, (construct c).init = { State.reset with cfg := c } ∧
    (∀ a, a < 4096 → (construct c).readByte a = 0)

/-- The ports of the host (R265). LOAD (R333): up to 3584 bytes go to memory from 0x200 on, the count is reported, and
nothing else changes; one byte more fails with `RomTooLarge`; the call is made before the loop starts and before any load
has succeeded (R332, R334; decision D34), and has no step otherwise (notes/assumptions/8.md). CONFIG (R273): the two rates
and nothing else are set, positive ones only and before the loop only (decision D33), and there is no step otherwise.
INPUT (R267): while the feed is open one event is appended at its tail, after closing nothing is (decision D24); closing
sets `inq_closed` only. -/
def Obligations.HostPortsTakeTheirCalls : Prop :=
  (∀ (s : State) (bytes : List Byte), s.phase = .boot → s.loaded = false → Memory.wf s.cfg.fontTable s.mem →
    (bytes.length ≤ 3584 → ∃ t, s.load bytes = .loaded bytes.length t ∧
      (∀ k, k < bytes.length → t.readByte (0x200 + k) = bytes.getD k 0) ∧
      SameMemoryOutside 0x200 bytes.length s t ∧ t = { s with mem := t.mem, loaded := true }) ∧
    (3584 < bytes.length → s.load bytes = .romTooLarge)) ∧
  (∀ (s : State) (bytes : List Byte), s.phase ≠ .boot ∨ s.loaded = true → s.load bytes = .noStep) ∧
  (∀ (s : State) (a b : Rate), s.phase = .boot → 0 < a.num → 0 < a.den → 0 < b.num → 0 < b.den →
    s.configure a b = .configured { s with cfg := { s.cfg with instrHz := a, renderHz := b } }) ∧
  (∀ (s : State) (a b : Rate), s.phase ≠ .boot ∨ a.num = 0 ∨ a.den = 0 ∨ b.num = 0 ∨ b.den = 0 →
    s.configure a b = .noStep) ∧
  (∀ (s : State) (k : Nat), s.inqClosed = false →
    s.hostPress k = { s with inq := s.inq ++ [.press k] } ∧
    s.hostRelease k = { s with inq := s.inq ++ [.release k] }) ∧
  (∀ (s : State) (k : Nat), s.inqClosed = true → s.hostPress k = s ∧ s.hostRelease k = s) ∧
  ∀ s : State, s.hostClose = { s with inqClosed := true }
end

