-- ==== Sys2Proof/Laws/State.lean ====
section
/-! SUPPORT. What each named update of the state does to each field: one lemma per field per update, so that no
proof unfolds a record update. -/

namespace Sys2Proof.Machine

/-! ### The sizes of R6 as numbers: `omega` does not unfold a parameter in a type -/

theorem reg_lt (x : Reg) : x.val < 16 := x.isLt
theorem key_lt (k : Fin Config.nkeys) : k.val < 16 := k.isLt
theorem row_lt (y : Fin Config.dispH) : y.val < 32 := y.isLt
theorem col_lt (x : Fin Config.dispW) : x.val < 64 := x.isLt
theorem State.sp_le (s : State) : s.sp.val ≤ 16 := Nat.le_of_lt_succ s.sp.isLt


/-! ### `State.setReg` -/

@[simp] theorem State.setReg_v (s : State) (r : Reg) (b : Byte) : (s.setReg r b).v = s.v.set r b := rfl
@[simp] theorem State.setReg_i (s : State) (r : Reg) (b : Byte) : (s.setReg r b).i = s.i := rfl
@[simp] theorem State.setReg_pc (s : State) (r : Reg) (b : Byte) : (s.setReg r b).pc = s.pc := rfl
@[simp] theorem State.setReg_sp (s : State) (r : Reg) (b : Byte) : (s.setReg r b).sp = s.sp := rfl
@[simp] theorem State.setReg_stack (s : State) (r : Reg) (b : Byte) : (s.setReg r b).stack = s.stack := rfl
@[simp] theorem State.setReg_dt (s : State) (r : Reg) (b : Byte) : (s.setReg r b).dt = s.dt := rfl
@[simp] theorem State.setReg_st (s : State) (r : Reg) (b : Byte) : (s.setReg r b).st = s.st := rfl
@[simp] theorem State.setReg_key (s : State) (r : Reg) (b : Byte) : (s.setReg r b).key = s.key := rfl
@[simp] theorem State.setReg_disp (s : State) (r : Reg) (b : Byte) : (s.setReg r b).disp = s.disp := rfl
@[simp] theorem State.setReg_drawPending (s : State) (r : Reg) (b : Byte) : (s.setReg r b).drawPending = s.drawPending := rfl
@[simp] theorem State.setReg_mem (s : State) (r : Reg) (b : Byte) : (s.setReg r b).mem = s.mem := rfl
@[simp] theorem State.setReg_lastInstructionTick (s : State) (r : Reg) (b : Byte) : (s.setReg r b).lastInstructionTick = s.lastInstructionTick := rfl
@[simp] theorem State.setReg_lastRenderTick (s : State) (r : Reg) (b : Byte) : (s.setReg r b).lastRenderTick = s.lastRenderTick := rfl
@[simp] theorem State.setReg_lastTimerTick (s : State) (r : Reg) (b : Byte) : (s.setReg r b).lastTimerTick = s.lastTimerTick := rfl
@[simp] theorem State.setReg_inq (s : State) (r : Reg) (b : Byte) : (s.setReg r b).inq = s.inq := rfl
@[simp] theorem State.setReg_inqClosed (s : State) (r : Reg) (b : Byte) : (s.setReg r b).inqClosed = s.inqClosed := rfl
@[simp] theorem State.setReg_run (s : State) (r : Reg) (b : Byte) : (s.setReg r b).run = s.run := rfl
@[simp] theorem State.setReg_reports (s : State) (r : Reg) (b : Byte) : (s.setReg r b).reports = s.reports := rfl
@[simp] theorem State.setReg_frames (s : State) (r : Reg) (b : Byte) : (s.setReg r b).frames = s.frames := rfl
@[simp] theorem State.setReg_cfg (s : State) (r : Reg) (b : Byte) : (s.setReg r b).cfg = s.cfg := rfl
@[simp] theorem State.setReg_phase (s : State) (r : Reg) (b : Byte) : (s.setReg r b).phase = s.phase := rfl
@[simp] theorem State.setReg_now (s : State) (r : Reg) (b : Byte) : (s.setReg r b).now = s.now := rfl
@[simp] theorem State.setReg_clockFeed (s : State) (r : Reg) (b : Byte) : (s.setReg r b).clockFeed = s.clockFeed := rfl
@[simp] theorem State.setReg_draws (s : State) (r : Reg) (b : Byte) : (s.setReg r b).draws = s.draws := rfl
@[simp] theorem State.setReg_loaded (s : State) (r : Reg) (b : Byte) : (s.setReg r b).loaded = s.loaded := rfl

/-! ### `State.setI` -/

@[simp] theorem State.setI_v (s : State) (w : Word) : (s.setI w).v = s.v := rfl
@[simp] theorem State.setI_i (s : State) (w : Word) : (s.setI w).i = w := rfl
@[simp] theorem State.setI_pc (s : State) (w : Word) : (s.setI w).pc = s.pc := rfl
@[simp] theorem State.setI_sp (s : State) (w : Word) : (s.setI w).sp = s.sp := rfl
@[simp] theorem State.setI_stack (s : State) (w : Word) : (s.setI w).stack = s.stack := rfl
@[simp] theorem State.setI_dt (s : State) (w : Word) : (s.setI w).dt = s.dt := rfl
@[simp] theorem State.setI_st (s : State) (w : Word) : (s.setI w).st = s.st := rfl
@[simp] theorem State.setI_key (s : State) (w : Word) : (s.setI w).key = s.key := rfl
@[simp] theorem State.setI_disp (s : State) (w : Word) : (s.setI w).disp = s.disp := rfl
@[simp] theorem State.setI_drawPending (s : State) (w : Word) : (s.setI w).drawPending = s.drawPending := rfl
@[simp] theorem State.setI_mem (s : State) (w : Word) : (s.setI w).mem = s.mem := rfl
@[simp] theorem State.setI_lastInstructionTick (s : State) (w : Word) : (s.setI w).lastInstructionTick = s.lastInstructionTick := rfl
@[simp] theorem State.setI_lastRenderTick (s : State) (w : Word) : (s.setI w).lastRenderTick = s.lastRenderTick := rfl
@[simp] theorem State.setI_lastTimerTick (s : State) (w : Word) : (s.setI w).lastTimerTick = s.lastTimerTick := rfl
@[simp] theorem State.setI_inq (s : State) (w : Word) : (s.setI w).inq = s.inq := rfl
@[simp] theorem State.setI_inqClosed (s : State) (w : Word) : (s.setI w).inqClosed = s.inqClosed := rfl
@[simp] theorem State.setI_run (s : State) (w : Word) : (s.setI w).run = s.run := rfl
@[simp] theorem State.setI_reports (s : State) (w : Word) : (s.setI w).reports = s.reports := rfl
@[simp] theorem State.setI_frames (s : State) (w : Word) : (s.setI w).frames = s.frames := rfl
@[simp] theorem State.setI_cfg (s : State) (w : Word) : (s.setI w).cfg = s.cfg := rfl
@[simp] theorem State.setI_phase (s : State) (w : Word) : (s.setI w).phase = s.phase := rfl
@[simp] theorem State.setI_now (s : State) (w : Word) : (s.setI w).now = s.now := rfl
@[simp] theorem State.setI_clockFeed (s : State) (w : Word) : (s.setI w).clockFeed = s.clockFeed := rfl
@[simp] theorem State.setI_draws (s : State) (w : Word) : (s.setI w).draws = s.draws := rfl
@[simp] theorem State.setI_loaded (s : State) (w : Word) : (s.setI w).loaded = s.loaded := rfl

/-! ### `State.setPc` -/

@[simp] theorem State.setPc_v (s : State) (w : Word) : (s.setPc w).v = s.v := rfl
@[simp] theorem State.setPc_i (s : State) (w : Word) : (s.setPc w).i = s.i := rfl
@[simp] theorem State.setPc_pc (s : State) (w : Word) : (s.setPc w).pc = w := rfl
@[simp] theorem State.setPc_sp (s : State) (w : Word) : (s.setPc w).sp = s.sp := rfl
@[simp] theorem State.setPc_stack (s : State) (w : Word) : (s.setPc w).stack = s.stack := rfl
@[simp] theorem State.setPc_dt (s : State) (w : Word) : (s.setPc w).dt = s.dt := rfl
@[simp] theorem State.setPc_st (s : State) (w : Word) : (s.setPc w).st = s.st := rfl
@[simp] theorem State.setPc_key (s : State) (w : Word) : (s.setPc w).key = s.key := rfl
@[simp] theorem State.setPc_disp (s : State) (w : Word) : (s.setPc w).disp = s.disp := rfl
@[simp] theorem State.setPc_drawPending (s : State) (w : Word) : (s.setPc w).drawPending = s.drawPending := rfl
@[simp] theorem State.setPc_mem (s : State) (w : Word) : (s.setPc w).mem = s.mem := rfl
@[simp] theorem State.setPc_lastInstructionTick (s : State) (w : Word) : (s.setPc w).lastInstructionTick = s.lastInstructionTick := rfl
@[simp] theorem State.setPc_lastRenderTick (s : State) (w : Word) : (s.setPc w).lastRenderTick = s.lastRenderTick := rfl
@[simp] theorem State.setPc_lastTimerTick (s : State) (w : Word) : (s.setPc w).lastTimerTick = s.lastTimerTick := rfl
@[simp] theorem State.setPc_inq (s : State) (w : Word) : (s.setPc w).inq = s.inq := rfl
@[simp] theorem State.setPc_inqClosed (s : State) (w : Word) : (s.setPc w).inqClosed = s.inqClosed := rfl
@[simp] theorem State.setPc_run (s : State) (w : Word) : (s.setPc w).run = s.run := rfl
@[simp] theorem State.setPc_reports (s : State) (w : Word) : (s.setPc w).reports = s.reports := rfl
@[simp] theorem State.setPc_frames (s : State) (w : Word) : (s.setPc w).frames = s.frames := rfl
@[simp] theorem State.setPc_cfg (s : State) (w : Word) : (s.setPc w).cfg = s.cfg := rfl
@[simp] theorem State.setPc_phase (s : State) (w : Word) : (s.setPc w).phase = s.phase := rfl
@[simp] theorem State.setPc_now (s : State) (w : Word) : (s.setPc w).now = s.now := rfl
@[simp] theorem State.setPc_clockFeed (s : State) (w : Word) : (s.setPc w).clockFeed = s.clockFeed := rfl
@[simp] theorem State.setPc_draws (s : State) (w : Word) : (s.setPc w).draws = s.draws := rfl
@[simp] theorem State.setPc_loaded (s : State) (w : Word) : (s.setPc w).loaded = s.loaded := rfl

/-! ### `State.setDT` -/

@[simp] theorem State.setDT_v (s : State) (b : Byte) : (s.setDT b).v = s.v := rfl
@[simp] theorem State.setDT_i (s : State) (b : Byte) : (s.setDT b).i = s.i := rfl
@[simp] theorem State.setDT_pc (s : State) (b : Byte) : (s.setDT b).pc = s.pc := rfl
@[simp] theorem State.setDT_sp (s : State) (b : Byte) : (s.setDT b).sp = s.sp := rfl
@[simp] theorem State.setDT_stack (s : State) (b : Byte) : (s.setDT b).stack = s.stack := rfl
@[simp] theorem State.setDT_dt (s : State) (b : Byte) : (s.setDT b).dt = b := rfl
@[simp] theorem State.setDT_st (s : State) (b : Byte) : (s.setDT b).st = s.st := rfl
@[simp] theorem State.setDT_key (s : State) (b : Byte) : (s.setDT b).key = s.key := rfl
@[simp] theorem State.setDT_disp (s : State) (b : Byte) : (s.setDT b).disp = s.disp := rfl
@[simp] theorem State.setDT_drawPending (s : State) (b : Byte) : (s.setDT b).drawPending = s.drawPending := rfl
@[simp] theorem State.setDT_mem (s : State) (b : Byte) : (s.setDT b).mem = s.mem := rfl
@[simp] theorem State.setDT_lastInstructionTick (s : State) (b : Byte) : (s.setDT b).lastInstructionTick = s.lastInstructionTick := rfl
@[simp] theorem State.setDT_lastRenderTick (s : State) (b : Byte) : (s.setDT b).lastRenderTick = s.lastRenderTick := rfl
@[simp] theorem State.setDT_lastTimerTick (s : State) (b : Byte) : (s.setDT b).lastTimerTick = s.lastTimerTick := rfl
@[simp] theorem State.setDT_inq (s : State) (b : Byte) : (s.setDT b).inq = s.inq := rfl
@[simp] theorem State.setDT_inqClosed (s : State) (b : Byte) : (s.setDT b).inqClosed = s.inqClosed := rfl
@[simp] theorem State.setDT_run (s : State) (b : Byte) : (s.setDT b).run = s.run := rfl
@[simp] theorem State.setDT_reports (s : State) (b : Byte) : (s.setDT b).reports = s.reports := rfl
@[simp] theorem State.setDT_frames (s : State) (b : Byte) : (s.setDT b).frames = s.frames := rfl
@[simp] theorem State.setDT_cfg (s : State) (b : Byte) : (s.setDT b).cfg = s.cfg := rfl
@[simp] theorem State.setDT_phase (s : State) (b : Byte) : (s.setDT b).phase = s.phase := rfl
@[simp] theorem State.setDT_now (s : State) (b : Byte) : (s.setDT b).now = s.now := rfl
@[simp] theorem State.setDT_clockFeed (s : State) (b : Byte) : (s.setDT b).clockFeed = s.clockFeed := rfl
@[simp] theorem State.setDT_draws (s : State) (b : Byte) : (s.setDT b).draws = s.draws := rfl
@[simp] theorem State.setDT_loaded (s : State) (b : Byte) : (s.setDT b).loaded = s.loaded := rfl

/-! ### `State.setST` -/

@[simp] theorem State.setST_v (s : State) (b : Byte) : (s.setST b).v = s.v := rfl
@[simp] theorem State.setST_i (s : State) (b : Byte) : (s.setST b).i = s.i := rfl
@[simp] theorem State.setST_pc (s : State) (b : Byte) : (s.setST b).pc = s.pc := rfl
@[simp] theorem State.setST_sp (s : State) (b : Byte) : (s.setST b).sp = s.sp := rfl
@[simp] theorem State.setST_stack (s : State) (b : Byte) : (s.setST b).stack = s.stack := rfl
@[simp] theorem State.setST_dt (s : State) (b : Byte) : (s.setST b).dt = s.dt := rfl
@[simp] theorem State.setST_st (s : State) (b : Byte) : (s.setST b).st = b := rfl
@[simp] theorem State.setST_key (s : State) (b : Byte) : (s.setST b).key = s.key := rfl
@[simp] theorem State.setST_disp (s : State) (b : Byte) : (s.setST b).disp = s.disp := rfl
@[simp] theorem State.setST_drawPending (s : State) (b : Byte) : (s.setST b).drawPending = s.drawPending := rfl
@[simp] theorem State.setST_mem (s : State) (b : Byte) : (s.setST b).mem = s.mem := rfl
@[simp] theorem State.setST_lastInstructionTick (s : State) (b : Byte) : (s.setST b).lastInstructionTick = s.lastInstructionTick := rfl
@[simp] theorem State.setST_lastRenderTick (s : State) (b : Byte) : (s.setST b).lastRenderTick = s.lastRenderTick := rfl
@[simp] theorem State.setST_lastTimerTick (s : State) (b : Byte) : (s.setST b).lastTimerTick = s.lastTimerTick := rfl
@[simp] theorem State.setST_inq (s : State) (b : Byte) : (s.setST b).inq = s.inq := rfl
@[simp] theorem State.setST_inqClosed (s : State) (b : Byte) : (s.setST b).inqClosed = s.inqClosed := rfl
@[simp] theorem State.setST_run (s : State) (b : Byte) : (s.setST b).run = s.run := rfl
@[simp] theorem State.setST_reports (s : State) (b : Byte) : (s.setST b).reports = s.reports := rfl
@[simp] theorem State.setST_frames (s : State) (b : Byte) : (s.setST b).frames = s.frames := rfl
@[simp] theorem State.setST_cfg (s : State) (b : Byte) : (s.setST b).cfg = s.cfg := rfl
@[simp] theorem State.setST_phase (s : State) (b : Byte) : (s.setST b).phase = s.phase := rfl
@[simp] theorem State.setST_now (s : State) (b : Byte) : (s.setST b).now = s.now := rfl
@[simp] theorem State.setST_clockFeed (s : State) (b : Byte) : (s.setST b).clockFeed = s.clockFeed := rfl
@[simp] theorem State.setST_draws (s : State) (b : Byte) : (s.setST b).draws = s.draws := rfl
@[simp] theorem State.setST_loaded (s : State) (b : Byte) : (s.setST b).loaded = s.loaded := rfl

/-! ### `State.showDisplay` -/

@[simp] theorem State.showDisplay_v (s : State) (d : Display) : (s.showDisplay d).v = s.v := rfl
@[simp] theorem State.showDisplay_i (s : State) (d : Display) : (s.showDisplay d).i = s.i := rfl
@[simp] theorem State.showDisplay_pc (s : State) (d : Display) : (s.showDisplay d).pc = s.pc := rfl
@[simp] theorem State.showDisplay_sp (s : State) (d : Display) : (s.showDisplay d).sp = s.sp := rfl
@[simp] theorem State.showDisplay_stack (s : State) (d : Display) : (s.showDisplay d).stack = s.stack := rfl
@[simp] theorem State.showDisplay_dt (s : State) (d : Display) : (s.showDisplay d).dt = s.dt := rfl
@[simp] theorem State.showDisplay_st (s : State) (d : Display) : (s.showDisplay d).st = s.st := rfl
@[simp] theorem State.showDisplay_key (s : State) (d : Display) : (s.showDisplay d).key = s.key := rfl
@[simp] theorem State.showDisplay_disp (s : State) (d : Display) : (s.showDisplay d).disp = d := rfl
@[simp] theorem State.showDisplay_drawPending (s : State) (d : Display) : (s.showDisplay d).drawPending = true := rfl
@[simp] theorem State.showDisplay_mem (s : State) (d : Display) : (s.showDisplay d).mem = s.mem := rfl
@[simp] theorem State.showDisplay_lastInstructionTick (s : State) (d : Display) : (s.showDisplay d).lastInstructionTick = s.lastInstructionTick := rfl
@[simp] theorem State.showDisplay_lastRenderTick (s : State) (d : Display) : (s.showDisplay d).lastRenderTick = s.lastRenderTick := rfl
@[simp] theorem State.showDisplay_lastTimerTick (s : State) (d : Display) : (s.showDisplay d).lastTimerTick = s.lastTimerTick := rfl
@[simp] theorem State.showDisplay_inq (s : State) (d : Display) : (s.showDisplay d).inq = s.inq := rfl
@[simp] theorem State.showDisplay_inqClosed (s : State) (d : Display) : (s.showDisplay d).inqClosed = s.inqClosed := rfl
@[simp] theorem State.showDisplay_run (s : State) (d : Display) : (s.showDisplay d).run = s.run := rfl
@[simp] theorem State.showDisplay_reports (s : State) (d : Display) : (s.showDisplay d).reports = s.reports := rfl
@[simp] theorem State.showDisplay_frames (s : State) (d : Display) : (s.showDisplay d).frames = s.frames := rfl
@[simp] theorem State.showDisplay_cfg (s : State) (d : Display) : (s.showDisplay d).cfg = s.cfg := rfl
@[simp] theorem State.showDisplay_phase (s : State) (d : Display) : (s.showDisplay d).phase = s.phase := rfl
@[simp] theorem State.showDisplay_now (s : State) (d : Display) : (s.showDisplay d).now = s.now := rfl
@[simp] theorem State.showDisplay_clockFeed (s : State) (d : Display) : (s.showDisplay d).clockFeed = s.clockFeed := rfl
@[simp] theorem State.showDisplay_draws (s : State) (d : Display) : (s.showDisplay d).draws = s.draws := rfl
@[simp] theorem State.showDisplay_loaded (s : State) (d : Display) : (s.showDisplay d).loaded = s.loaded := rfl

/-! ### `State.storeBytes` -/

@[simp] theorem State.storeBytes_v (s : State) (a : Nat) (bs : List Byte) : (s.storeBytes a bs).v = s.v := rfl
@[simp] theorem State.storeBytes_i (s : State) (a : Nat) (bs : List Byte) : (s.storeBytes a bs).i = s.i := rfl
@[simp] theorem State.storeBytes_pc (s : State) (a : Nat) (bs : List Byte) : (s.storeBytes a bs).pc = s.pc := rfl
@[simp] theorem State.storeBytes_sp (s : State) (a : Nat) (bs : List Byte) : (s.storeBytes a bs).sp = s.sp := rfl
@[simp] theorem State.storeBytes_stack (s : State) (a : Nat) (bs : List Byte) : (s.storeBytes a bs).stack = s.stack := rfl
@[simp] theorem State.storeBytes_dt (s : State) (a : Nat) (bs : List Byte) : (s.storeBytes a bs).dt = s.dt := rfl
@[simp] theorem State.storeBytes_st (s : State) (a : Nat) (bs : List Byte) : (s.storeBytes a bs).st = s.st := rfl
@[simp] theorem State.storeBytes_key (s : State) (a : Nat) (bs : List Byte) : (s.storeBytes a bs).key = s.key := rfl
@[simp] theorem State.storeBytes_disp (s : State) (a : Nat) (bs : List Byte) : (s.storeBytes a bs).disp = s.disp := rfl
@[simp] theorem State.storeBytes_drawPending (s : State) (a : Nat) (bs : List Byte) : (s.storeBytes a bs).drawPending = s.drawPending := rfl
@[simp] theorem State.storeBytes_mem (s : State) (a : Nat) (bs : List Byte) : (s.storeBytes a bs).mem = Memory.writeBytes s.cfg.fontTable a bs s.mem := rfl
@[simp] theorem State.storeBytes_lastInstructionTick (s : State) (a : Nat) (bs : List Byte) : (s.storeBytes a bs).lastInstructionTick = s.lastInstructionTick := rfl
@[simp] theorem State.storeBytes_lastRenderTick (s : State) (a : Nat) (bs : List Byte) : (s.storeBytes a bs).lastRenderTick = s.lastRenderTick := rfl
@[simp] theorem State.storeBytes_lastTimerTick (s : State) (a : Nat) (bs : List Byte) : (s.storeBytes a bs).lastTimerTick = s.lastTimerTick := rfl
@[simp] theorem State.storeBytes_inq (s : State) (a : Nat) (bs : List Byte) : (s.storeBytes a bs).inq = s.inq := rfl
@[simp] theorem State.storeBytes_inqClosed (s : State) (a : Nat) (bs : List Byte) : (s.storeBytes a bs).inqClosed = s.inqClosed := rfl
@[simp] theorem State.storeBytes_run (s : State) (a : Nat) (bs : List Byte) : (s.storeBytes a bs).run = s.run := rfl
@[simp] theorem State.storeBytes_reports (s : State) (a : Nat) (bs : List Byte) : (s.storeBytes a bs).reports = s.reports := rfl
@[simp] theorem State.storeBytes_frames (s : State) (a : Nat) (bs : List Byte) : (s.storeBytes a bs).frames = s.frames := rfl
@[simp] theorem State.storeBytes_cfg (s : State) (a : Nat) (bs : List Byte) : (s.storeBytes a bs).cfg = s.cfg := rfl
@[simp] theorem State.storeBytes_phase (s : State) (a : Nat) (bs : List Byte) : (s.storeBytes a bs).phase = s.phase := rfl
@[simp] theorem State.storeBytes_now (s : State) (a : Nat) (bs : List Byte) : (s.storeBytes a bs).now = s.now := rfl
@[simp] theorem State.storeBytes_clockFeed (s : State) (a : Nat) (bs : List Byte) : (s.storeBytes a bs).clockFeed = s.clockFeed := rfl
@[simp] theorem State.storeBytes_draws (s : State) (a : Nat) (bs : List Byte) : (s.storeBytes a bs).draws = s.draws := rfl
@[simp] theorem State.storeBytes_loaded (s : State) (a : Nat) (bs : List Byte) : (s.storeBytes a bs).loaded = s.loaded := rfl

/-! ### `State.setRegsFrom` -/

@[simp] theorem State.setRegsFrom_v (s : State) (bs : List Byte) : (s.setRegsFrom bs).v = writeRegs 0 bs s.v := rfl
@[simp] theorem State.setRegsFrom_i (s : State) (bs : List Byte) : (s.setRegsFrom bs).i = s.i := rfl
@[simp] theorem State.setRegsFrom_pc (s : State) (bs : List Byte) : (s.setRegsFrom bs).pc = s.pc := rfl
@[simp] theorem State.setRegsFrom_sp (s : State) (bs : List Byte) : (s.setRegsFrom bs).sp = s.sp := rfl
@[simp] theorem State.setRegsFrom_stack (s : State) (bs : List Byte) : (s.setRegsFrom bs).stack = s.stack := rfl
@[simp] theorem State.setRegsFrom_dt (s : State) (bs : List Byte) : (s.setRegsFrom bs).dt = s.dt := rfl
@[simp] theorem State.setRegsFrom_st (s : State) (bs : List Byte) : (s.setRegsFrom bs).st = s.st := rfl
@[simp] theorem State.setRegsFrom_key (s : State) (bs : List Byte) : (s.setRegsFrom bs).key = s.key := rfl
@[simp] theorem State.setRegsFrom_disp (s : State) (bs : List Byte) : (s.setRegsFrom bs).disp = s.disp := rfl
@[simp] theorem State.setRegsFrom_drawPending (s : State) (bs : List Byte) : (s.setRegsFrom bs).drawPending = s.drawPending := rfl
@[simp] theorem State.setRegsFrom_mem (s : State) (bs : List Byte) : (s.setRegsFrom bs).mem = s.mem := rfl
@[simp] theorem State.setRegsFrom_lastInstructionTick (s : State) (bs : List Byte) : (s.setRegsFrom bs).lastInstructionTick = s.lastInstructionTick := rfl
@[simp] theorem State.setRegsFrom_lastRenderTick (s : State) (bs : List Byte) : (s.setRegsFrom bs).lastRenderTick = s.lastRenderTick := rfl
@[simp] theorem State.setRegsFrom_lastTimerTick (s : State) (bs : List Byte) : (s.setRegsFrom bs).lastTimerTick = s.lastTimerTick := rfl
@[simp] theorem State.setRegsFrom_inq (s : State) (bs : List Byte) : (s.setRegsFrom bs).inq = s.inq := rfl
@[simp] theorem State.setRegsFrom_inqClosed (s : State) (bs : List Byte) : (s.setRegsFrom bs).inqClosed = s.inqClosed := rfl
@[simp] theorem State.setRegsFrom_run (s : State) (bs : List Byte) : (s.setRegsFrom bs).run = s.run := rfl
@[simp] theorem State.setRegsFrom_reports (s : State) (bs : List Byte) : (s.setRegsFrom bs).reports = s.reports := rfl
@[simp] theorem State.setRegsFrom_frames (s : State) (bs : List Byte) : (s.setRegsFrom bs).frames = s.frames := rfl
@[simp] theorem State.setRegsFrom_cfg (s : State) (bs : List Byte) : (s.setRegsFrom bs).cfg = s.cfg := rfl
@[simp] theorem State.setRegsFrom_phase (s : State) (bs : List Byte) : (s.setRegsFrom bs).phase = s.phase := rfl
@[simp] theorem State.setRegsFrom_now (s : State) (bs : List Byte) : (s.setRegsFrom bs).now = s.now := rfl
@[simp] theorem State.setRegsFrom_clockFeed (s : State) (bs : List Byte) : (s.setRegsFrom bs).clockFeed = s.clockFeed := rfl
@[simp] theorem State.setRegsFrom_draws (s : State) (bs : List Byte) : (s.setRegsFrom bs).draws = s.draws := rfl
@[simp] theorem State.setRegsFrom_loaded (s : State) (bs : List Byte) : (s.setRegsFrom bs).loaded = s.loaded := rfl

/-! ### `State.timerTick` -/

@[simp] theorem State.timerTick_v (s : State) : s.timerTick.v = s.v := rfl
@[simp] theorem State.timerTick_i (s : State) : s.timerTick.i = s.i := rfl
@[simp] theorem State.timerTick_pc (s : State) : s.timerTick.pc = s.pc := rfl
@[simp] theorem State.timerTick_sp (s : State) : s.timerTick.sp = s.sp := rfl
@[simp] theorem State.timerTick_stack (s : State) : s.timerTick.stack = s.stack := rfl
@[simp] theorem State.timerTick_dt (s : State) : s.timerTick.dt = countDown s.dt := rfl
@[simp] theorem State.timerTick_st (s : State) : s.timerTick.st = countDown s.st := rfl
@[simp] theorem State.timerTick_key (s : State) : s.timerTick.key = s.key := rfl
@[simp] theorem State.timerTick_disp (s : State) : s.timerTick.disp = s.disp := rfl
@[simp] theorem State.timerTick_drawPending (s : State) : s.timerTick.drawPending = s.drawPending := rfl
@[simp] theorem State.timerTick_mem (s : State) : s.timerTick.mem = s.mem := rfl
@[simp] theorem State.timerTick_lastInstructionTick (s : State) : s.timerTick.lastInstructionTick = s.lastInstructionTick := rfl
@[simp] theorem State.timerTick_lastRenderTick (s : State) : s.timerTick.lastRenderTick = s.lastRenderTick := rfl
@[simp] theorem State.timerTick_lastTimerTick (s : State) : s.timerTick.lastTimerTick = s.lastTimerTick := rfl
@[simp] theorem State.timerTick_inq (s : State) : s.timerTick.inq = s.inq := rfl
@[simp] theorem State.timerTick_inqClosed (s : State) : s.timerTick.inqClosed = s.inqClosed := rfl
@[simp] theorem State.timerTick_run (s : State) : s.timerTick.run = s.run := rfl
@[simp] theorem State.timerTick_reports (s : State) : s.timerTick.reports = s.reports := rfl
@[simp] theorem State.timerTick_frames (s : State) : s.timerTick.frames = s.frames := rfl
@[simp] theorem State.timerTick_cfg (s : State) : s.timerTick.cfg = s.cfg := rfl
@[simp] theorem State.timerTick_phase (s : State) : s.timerTick.phase = s.phase := rfl
@[simp] theorem State.timerTick_now (s : State) : s.timerTick.now = s.now := rfl
@[simp] theorem State.timerTick_clockFeed (s : State) : s.timerTick.clockFeed = s.clockFeed := rfl
@[simp] theorem State.timerTick_draws (s : State) : s.timerTick.draws = s.draws := rfl
@[simp] theorem State.timerTick_loaded (s : State) : s.timerTick.loaded = s.loaded := rfl

/-! ### `State.report` -/

@[simp] theorem State.report_v (s : State) (c : Report) : (s.report c).v = s.v := rfl
@[simp] theorem State.report_i (s : State) (c : Report) : (s.report c).i = s.i := rfl
@[simp] theorem State.report_pc (s : State) (c : Report) : (s.report c).pc = s.pc := rfl
@[simp] theorem State.report_sp (s : State) (c : Report) : (s.report c).sp = s.sp := rfl
@[simp] theorem State.report_stack (s : State) (c : Report) : (s.report c).stack = s.stack := rfl
@[simp] theorem State.report_dt (s : State) (c : Report) : (s.report c).dt = s.dt := rfl
@[simp] theorem State.report_st (s : State) (c : Report) : (s.report c).st = s.st := rfl
@[simp] theorem State.report_key (s : State) (c : Report) : (s.report c).key = s.key := rfl
@[simp] theorem State.report_disp (s : State) (c : Report) : (s.report c).disp = s.disp := rfl
@[simp] theorem State.report_drawPending (s : State) (c : Report) : (s.report c).drawPending = s.drawPending := rfl
@[simp] theorem State.report_mem (s : State) (c : Report) : (s.report c).mem = s.mem := rfl
@[simp] theorem State.report_lastInstructionTick (s : State) (c : Report) : (s.report c).lastInstructionTick = s.lastInstructionTick := rfl
@[simp] theorem State.report_lastRenderTick (s : State) (c : Report) : (s.report c).lastRenderTick = s.lastRenderTick := rfl
@[simp] theorem State.report_lastTimerTick (s : State) (c : Report) : (s.report c).lastTimerTick = s.lastTimerTick := rfl
@[simp] theorem State.report_inq (s : State) (c : Report) : (s.report c).inq = s.inq := rfl
@[simp] theorem State.report_inqClosed (s : State) (c : Report) : (s.report c).inqClosed = s.inqClosed := rfl
@[simp] theorem State.report_run (s : State) (c : Report) : (s.report c).run = s.run := rfl
@[simp] theorem State.report_reports (s : State) (c : Report) : (s.report c).reports = s.reports ++ [c] := rfl
@[simp] theorem State.report_frames (s : State) (c : Report) : (s.report c).frames = s.frames := rfl
@[simp] theorem State.report_cfg (s : State) (c : Report) : (s.report c).cfg = s.cfg := rfl
@[simp] theorem State.report_phase (s : State) (c : Report) : (s.report c).phase = s.phase := rfl
@[simp] theorem State.report_now (s : State) (c : Report) : (s.report c).now = s.now := rfl
@[simp] theorem State.report_clockFeed (s : State) (c : Report) : (s.report c).clockFeed = s.clockFeed := rfl
@[simp] theorem State.report_draws (s : State) (c : Report) : (s.report c).draws = s.draws := rfl
@[simp] theorem State.report_loaded (s : State) (c : Report) : (s.report c).loaded = s.loaded := rfl

/-! ### `State.raise` -/

@[simp] theorem State.raise_v (s : State) (w : Word) (c : Cause) : (s.raise w c).v = s.v := rfl
@[simp] theorem State.raise_i (s : State) (w : Word) (c : Cause) : (s.raise w c).i = s.i := rfl
@[simp] theorem State.raise_pc (s : State) (w : Word) (c : Cause) : (s.raise w c).pc = w := rfl
@[simp] theorem State.raise_sp (s : State) (w : Word) (c : Cause) : (s.raise w c).sp = s.sp := rfl
@[simp] theorem State.raise_stack (s : State) (w : Word) (c : Cause) : (s.raise w c).stack = s.stack := rfl
@[simp] theorem State.raise_dt (s : State) (w : Word) (c : Cause) : (s.raise w c).dt = s.dt := rfl
@[simp] theorem State.raise_st (s : State) (w : Word) (c : Cause) : (s.raise w c).st = s.st := rfl
@[simp] theorem State.raise_key (s : State) (w : Word) (c : Cause) : (s.raise w c).key = s.key := rfl
@[simp] theorem State.raise_disp (s : State) (w : Word) (c : Cause) : (s.raise w c).disp = s.disp := rfl
@[simp] theorem State.raise_drawPending (s : State) (w : Word) (c : Cause) : (s.raise w c).drawPending = s.drawPending := rfl
@[simp] theorem State.raise_mem (s : State) (w : Word) (c : Cause) : (s.raise w c).mem = s.mem := rfl
@[simp] theorem State.raise_lastInstructionTick (s : State) (w : Word) (c : Cause) : (s.raise w c).lastInstructionTick = s.lastInstructionTick := rfl
@[simp] theorem State.raise_lastRenderTick (s : State) (w : Word) (c : Cause) : (s.raise w c).lastRenderTick = s.lastRenderTick := rfl
@[simp] theorem State.raise_lastTimerTick (s : State) (w : Word) (c : Cause) : (s.raise w c).lastTimerTick = s.lastTimerTick := rfl
@[simp] theorem State.raise_inq (s : State) (w : Word) (c : Cause) : (s.raise w c).inq = s.inq := rfl
@[simp] theorem State.raise_inqClosed (s : State) (w : Word) (c : Cause) : (s.raise w c).inqClosed = s.inqClosed := rfl
@[simp] theorem State.raise_run (s : State) (w : Word) (c : Cause) : (s.raise w c).run = .faulted c := rfl
@[simp] theorem State.raise_reports (s : State) (w : Word) (c : Cause) : (s.raise w c).reports = s.reports := rfl
@[simp] theorem State.raise_frames (s : State) (w : Word) (c : Cause) : (s.raise w c).frames = s.frames := rfl
@[simp] theorem State.raise_cfg (s : State) (w : Word) (c : Cause) : (s.raise w c).cfg = s.cfg := rfl
@[simp] theorem State.raise_phase (s : State) (w : Word) (c : Cause) : (s.raise w c).phase = s.phase := rfl
@[simp] theorem State.raise_now (s : State) (w : Word) (c : Cause) : (s.raise w c).now = s.now := rfl
@[simp] theorem State.raise_clockFeed (s : State) (w : Word) (c : Cause) : (s.raise w c).clockFeed = s.clockFeed := rfl
@[simp] theorem State.raise_draws (s : State) (w : Word) (c : Cause) : (s.raise w c).draws = s.draws := rfl
@[simp] theorem State.raise_loaded (s : State) (w : Word) (c : Cause) : (s.raise w c).loaded = s.loaded := rfl

/-! ### `State.raiseInInstr` -/

@[simp] theorem State.raiseInInstr_v (s : State) (c : Cause) : (s.raiseInInstr c).v = s.v := rfl
@[simp] theorem State.raiseInInstr_i (s : State) (c : Cause) : (s.raiseInInstr c).i = s.i := rfl
@[simp] theorem State.raiseInInstr_pc (s : State) (c : Cause) : (s.raiseInInstr c).pc = s.pc - 2 := rfl
@[simp] theorem State.raiseInInstr_sp (s : State) (c : Cause) : (s.raiseInInstr c).sp = s.sp := rfl
@[simp] theorem State.raiseInInstr_stack (s : State) (c : Cause) : (s.raiseInInstr c).stack = s.stack := rfl
@[simp] theorem State.raiseInInstr_dt (s : State) (c : Cause) : (s.raiseInInstr c).dt = s.dt := rfl
@[simp] theorem State.raiseInInstr_st (s : State) (c : Cause) : (s.raiseInInstr c).st = s.st := rfl
@[simp] theorem State.raiseInInstr_key (s : State) (c : Cause) : (s.raiseInInstr c).key = s.key := rfl
@[simp] theorem State.raiseInInstr_disp (s : State) (c : Cause) : (s.raiseInInstr c).disp = s.disp := rfl
@[simp] theorem State.raiseInInstr_drawPending (s : State) (c : Cause) : (s.raiseInInstr c).drawPending = s.drawPending := rfl
@[simp] theorem State.raiseInInstr_mem (s : State) (c : Cause) : (s.raiseInInstr c).mem = s.mem := rfl
@[simp] theorem State.raiseInInstr_lastInstructionTick (s : State) (c : Cause) : (s.raiseInInstr c).lastInstructionTick = s.lastInstructionTick := rfl
@[simp] theorem State.raiseInInstr_lastRenderTick (s : State) (c : Cause) : (s.raiseInInstr c).lastRenderTick = s.lastRenderTick := rfl
@[simp] theorem State.raiseInInstr_lastTimerTick (s : State) (c : Cause) : (s.raiseInInstr c).lastTimerTick = s.lastTimerTick := rfl
@[simp] theorem State.raiseInInstr_inq (s : State) (c : Cause) : (s.raiseInInstr c).inq = s.inq := rfl
@[simp] theorem State.raiseInInstr_inqClosed (s : State) (c : Cause) : (s.raiseInInstr c).inqClosed = s.inqClosed := rfl
@[simp] theorem State.raiseInInstr_run (s : State) (c : Cause) : (s.raiseInInstr c).run = .faulted c := rfl
@[simp] theorem State.raiseInInstr_reports (s : State) (c : Cause) : (s.raiseInInstr c).reports = s.reports := rfl
@[simp] theorem State.raiseInInstr_frames (s : State) (c : Cause) : (s.raiseInInstr c).frames = s.frames := rfl
@[simp] theorem State.raiseInInstr_cfg (s : State) (c : Cause) : (s.raiseInInstr c).cfg = s.cfg := rfl
@[simp] theorem State.raiseInInstr_phase (s : State) (c : Cause) : (s.raiseInInstr c).phase = s.phase := rfl
@[simp] theorem State.raiseInInstr_now (s : State) (c : Cause) : (s.raiseInInstr c).now = s.now := rfl
@[simp] theorem State.raiseInInstr_clockFeed (s : State) (c : Cause) : (s.raiseInInstr c).clockFeed = s.clockFeed := rfl
@[simp] theorem State.raiseInInstr_draws (s : State) (c : Cause) : (s.raiseInInstr c).draws = s.draws := rfl
@[simp] theorem State.raiseInInstr_loaded (s : State) (c : Cause) : (s.raiseInInstr c).loaded = s.loaded := rfl

/-! ### `State.setFlag` -/

@[simp] theorem State.setFlag_v (s : State) (f : Bool) : (s.setFlag f).v = s.v.set 15 (flagByte f) := rfl
@[simp] theorem State.setFlag_i (s : State) (f : Bool) : (s.setFlag f).i = s.i := rfl
@[simp] theorem State.setFlag_pc (s : State) (f : Bool) : (s.setFlag f).pc = s.pc := rfl
@[simp] theorem State.setFlag_sp (s : State) (f : Bool) : (s.setFlag f).sp = s.sp := rfl
@[simp] theorem State.setFlag_stack (s : State) (f : Bool) : (s.setFlag f).stack = s.stack := rfl
@[simp] theorem State.setFlag_dt (s : State) (f : Bool) : (s.setFlag f).dt = s.dt := rfl
@[simp] theorem State.setFlag_st (s : State) (f : Bool) : (s.setFlag f).st = s.st := rfl
@[simp] theorem State.setFlag_key (s : State) (f : Bool) : (s.setFlag f).key = s.key := rfl
@[simp] theorem State.setFlag_disp (s : State) (f : Bool) : (s.setFlag f).disp = s.disp := rfl
@[simp] theorem State.setFlag_drawPending (s : State) (f : Bool) : (s.setFlag f).drawPending = s.drawPending := rfl
@[simp] theorem State.setFlag_mem (s : State) (f : Bool) : (s.setFlag f).mem = s.mem := rfl
@[simp] theorem State.setFlag_lastInstructionTick (s : State) (f : Bool) : (s.setFlag f).lastInstructionTick = s.lastInstructionTick := rfl
@[simp] theorem State.setFlag_lastRenderTick (s : State) (f : Bool) : (s.setFlag f).lastRenderTick = s.lastRenderTick := rfl
@[simp] theorem State.setFlag_lastTimerTick (s : State) (f : Bool) : (s.setFlag f).lastTimerTick = s.lastTimerTick := rfl
@[simp] theorem State.setFlag_inq (s : State) (f : Bool) : (s.setFlag f).inq = s.inq := rfl
@[simp] theorem State.setFlag_inqClosed (s : State) (f : Bool) : (s.setFlag f).inqClosed = s.inqClosed := rfl
@[simp] theorem State.setFlag_run (s : State) (f : Bool) : (s.setFlag f).run = s.run := rfl
@[simp] theorem State.setFlag_reports (s : State) (f : Bool) : (s.setFlag f).reports = s.reports := rfl
@[simp] theorem State.setFlag_frames (s : State) (f : Bool) : (s.setFlag f).frames = s.frames := rfl
@[simp] theorem State.setFlag_cfg (s : State) (f : Bool) : (s.setFlag f).cfg = s.cfg := rfl
@[simp] theorem State.setFlag_phase (s : State) (f : Bool) : (s.setFlag f).phase = s.phase := rfl
@[simp] theorem State.setFlag_now (s : State) (f : Bool) : (s.setFlag f).now = s.now := rfl
@[simp] theorem State.setFlag_clockFeed (s : State) (f : Bool) : (s.setFlag f).clockFeed = s.clockFeed := rfl
@[simp] theorem State.setFlag_draws (s : State) (f : Bool) : (s.setFlag f).draws = s.draws := rfl
@[simp] theorem State.setFlag_loaded (s : State) (f : Bool) : (s.setFlag f).loaded = s.loaded := rfl

/-! ### `State.setRegFlag` -/

@[simp] theorem State.setRegFlag_v (s : State) (x : Reg) (b : Byte) (f : Bool) : (s.setRegFlag x b f).v = (s.v.set x b).set 15 (flagByte f) := rfl
@[simp] theorem State.setRegFlag_i (s : State) (x : Reg) (b : Byte) (f : Bool) : (s.setRegFlag x b f).i = s.i := rfl
@[simp] theorem State.setRegFlag_pc (s : State) (x : Reg) (b : Byte) (f : Bool) : (s.setRegFlag x b f).pc = s.pc := rfl
@[simp] theorem State.setRegFlag_sp (s : State) (x : Reg) (b : Byte) (f : Bool) : (s.setRegFlag x b f).sp = s.sp := rfl
@[simp] theorem State.setRegFlag_stack (s : State) (x : Reg) (b : Byte) (f : Bool) : (s.setRegFlag x b f).stack = s.stack := rfl
@[simp] theorem State.setRegFlag_dt (s : State) (x : Reg) (b : Byte) (f : Bool) : (s.setRegFlag x b f).dt = s.dt := rfl
@[simp] theorem State.setRegFlag_st (s : State) (x : Reg) (b : Byte) (f : Bool) : (s.setRegFlag x b f).st = s.st := rfl
@[simp] theorem State.setRegFlag_key (s : State) (x : Reg) (b : Byte) (f : Bool) : (s.setRegFlag x b f).key = s.key := rfl
@[simp] theorem State.setRegFlag_disp (s : State) (x : Reg) (b : Byte) (f : Bool) : (s.setRegFlag x b f).disp = s.disp := rfl
@[simp] theorem State.setRegFlag_drawPending (s : State) (x : Reg) (b : Byte) (f : Bool) : (s.setRegFlag x b f).drawPending = s.drawPending := rfl
@[simp] theorem State.setRegFlag_mem (s : State) (x : Reg) (b : Byte) (f : Bool) : (s.setRegFlag x b f).mem = s.mem := rfl
@[simp] theorem State.setRegFlag_lastInstructionTick (s : State) (x : Reg) (b : Byte) (f : Bool) : (s.setRegFlag x b f).lastInstructionTick = s.lastInstructionTick := rfl
@[simp] theorem State.setRegFlag_lastRenderTick (s : State) (x : Reg) (b : Byte) (f : Bool) : (s.setRegFlag x b f).lastRenderTick = s.lastRenderTick := rfl
@[simp] theorem State.setRegFlag_lastTimerTick (s : State) (x : Reg) (b : Byte) (f : Bool) : (s.setRegFlag x b f).lastTimerTick = s.lastTimerTick := rfl
@[simp] theorem State.setRegFlag_inq (s : State) (x : Reg) (b : Byte) (f : Bool) : (s.setRegFlag x b f).inq = s.inq := rfl
@[simp] theorem State.setRegFlag_inqClosed (s : State) (x : Reg) (b : Byte) (f : Bool) : (s.setRegFlag x b f).inqClosed = s.inqClosed := rfl
@[simp] theorem State.setRegFlag_run (s : State) (x : Reg) (b : Byte) (f : Bool) : (s.setRegFlag x b f).run = s.run := rfl
@[simp] theorem State.setRegFlag_reports (s : State) (x : Reg) (b : Byte) (f : Bool) : (s.setRegFlag x b f).reports = s.reports := rfl
@[simp] theorem State.setRegFlag_frames (s : State) (x : Reg) (b : Byte) (f : Bool) : (s.setRegFlag x b f).frames = s.frames := rfl
@[simp] theorem State.setRegFlag_cfg (s : State) (x : Reg) (b : Byte) (f : Bool) : (s.setRegFlag x b f).cfg = s.cfg := rfl
@[simp] theorem State.setRegFlag_phase (s : State) (x : Reg) (b : Byte) (f : Bool) : (s.setRegFlag x b f).phase = s.phase := rfl
@[simp] theorem State.setRegFlag_now (s : State) (x : Reg) (b : Byte) (f : Bool) : (s.setRegFlag x b f).now = s.now := rfl
@[simp] theorem State.setRegFlag_clockFeed (s : State) (x : Reg) (b : Byte) (f : Bool) : (s.setRegFlag x b f).clockFeed = s.clockFeed := rfl
@[simp] theorem State.setRegFlag_draws (s : State) (x : Reg) (b : Byte) (f : Bool) : (s.setRegFlag x b f).draws = s.draws := rfl
@[simp] theorem State.setRegFlag_loaded (s : State) (x : Reg) (b : Byte) (f : Bool) : (s.setRegFlag x b f).loaded = s.loaded := rfl

/-! ### `State.advancePc` -/

@[simp] theorem State.advancePc_v (s : State) : s.advancePc.v = s.v := rfl
@[simp] theorem State.advancePc_i (s : State) : s.advancePc.i = s.i := rfl
@[simp] theorem State.advancePc_pc (s : State) : s.advancePc.pc = s.pc + 2 := rfl
@[simp] theorem State.advancePc_sp (s : State) : s.advancePc.sp = s.sp := rfl
@[simp] theorem State.advancePc_stack (s : State) : s.advancePc.stack = s.stack := rfl
@[simp] theorem State.advancePc_dt (s : State) : s.advancePc.dt = s.dt := rfl
@[simp] theorem State.advancePc_st (s : State) : s.advancePc.st = s.st := rfl
@[simp] theorem State.advancePc_key (s : State) : s.advancePc.key = s.key := rfl
@[simp] theorem State.advancePc_disp (s : State) : s.advancePc.disp = s.disp := rfl
@[simp] theorem State.advancePc_drawPending (s : State) : s.advancePc.drawPending = s.drawPending := rfl
@[simp] theorem State.advancePc_mem (s : State) : s.advancePc.mem = s.mem := rfl
@[simp] theorem State.advancePc_lastInstructionTick (s : State) : s.advancePc.lastInstructionTick = s.lastInstructionTick := rfl
@[simp] theorem State.advancePc_lastRenderTick (s : State) : s.advancePc.lastRenderTick = s.lastRenderTick := rfl
@[simp] theorem State.advancePc_lastTimerTick (s : State) : s.advancePc.lastTimerTick = s.lastTimerTick := rfl
@[simp] theorem State.advancePc_inq (s : State) : s.advancePc.inq = s.inq := rfl
@[simp] theorem State.advancePc_inqClosed (s : State) : s.advancePc.inqClosed = s.inqClosed := rfl
@[simp] theorem State.advancePc_run (s : State) : s.advancePc.run = s.run := rfl
@[simp] theorem State.advancePc_reports (s : State) : s.advancePc.reports = s.reports := rfl
@[simp] theorem State.advancePc_frames (s : State) : s.advancePc.frames = s.frames := rfl
@[simp] theorem State.advancePc_cfg (s : State) : s.advancePc.cfg = s.cfg := rfl
@[simp] theorem State.advancePc_phase (s : State) : s.advancePc.phase = s.phase := rfl
@[simp] theorem State.advancePc_now (s : State) : s.advancePc.now = s.now := rfl
@[simp] theorem State.advancePc_clockFeed (s : State) : s.advancePc.clockFeed = s.clockFeed := rfl
@[simp] theorem State.advancePc_draws (s : State) : s.advancePc.draws = s.draws := rfl
@[simp] theorem State.advancePc_loaded (s : State) : s.advancePc.loaded = s.loaded := rfl

/-! ### `State.skipIf` -/

@[simp] theorem State.skipIf_v (s : State) (c : Bool) : (s.skipIf c).v = s.v := by
  unfold State.skipIf; split <;> rfl
@[simp] theorem State.skipIf_i (s : State) (c : Bool) : (s.skipIf c).i = s.i := by
  unfold State.skipIf; split <;> rfl
@[simp] theorem State.skipIf_pc (s : State) (c : Bool) : (s.skipIf c).pc = if c then s.pc + 2 else s.pc := by
  unfold State.skipIf; split <;> rfl
@[simp] theorem State.skipIf_sp (s : State) (c : Bool) : (s.skipIf c).sp = s.sp := by
  unfold State.skipIf; split <;> rfl
@[simp] theorem State.skipIf_stack (s : State) (c : Bool) : (s.skipIf c).stack = s.stack := by
  unfold State.skipIf; split <;> rfl
@[simp] theorem State.skipIf_dt (s : State) (c : Bool) : (s.skipIf c).dt = s.dt := by
  unfold State.skipIf; split <;> rfl
@[simp] theorem State.skipIf_st (s : State) (c : Bool) : (s.skipIf c).st = s.st := by
  unfold State.skipIf; split <;> rfl
@[simp] theorem State.skipIf_key (s : State) (c : Bool) : (s.skipIf c).key = s.key := by
  unfold State.skipIf; split <;> rfl
@[simp] theorem State.skipIf_disp (s : State) (c : Bool) : (s.skipIf c).disp = s.disp := by
  unfold State.skipIf; split <;> rfl
@[simp] theorem State.skipIf_drawPending (s : State) (c : Bool) : (s.skipIf c).drawPending = s.drawPending := by
  unfold State.skipIf; split <;> rfl
@[simp] theorem State.skipIf_mem (s : State) (c : Bool) : (s.skipIf c).mem = s.mem := by
  unfold State.skipIf; split <;> rfl
@[simp] theorem State.skipIf_lastInstructionTick (s : State) (c : Bool) : (s.skipIf c).lastInstructionTick = s.lastInstructionTick := by
  unfold State.skipIf; split <;> rfl
@[simp] theorem State.skipIf_lastRenderTick (s : State) (c : Bool) : (s.skipIf c).lastRenderTick = s.lastRenderTick := by
  unfold State.skipIf; split <;> rfl
@[simp] theorem State.skipIf_lastTimerTick (s : State) (c : Bool) : (s.skipIf c).lastTimerTick = s.lastTimerTick := by
  unfold State.skipIf; split <;> rfl
@[simp] theorem State.skipIf_inq (s : State) (c : Bool) : (s.skipIf c).inq = s.inq := by
  unfold State.skipIf; split <;> rfl
@[simp] theorem State.skipIf_inqClosed (s : State) (c : Bool) : (s.skipIf c).inqClosed = s.inqClosed := by
  unfold State.skipIf; split <;> rfl
@[simp] theorem State.skipIf_run (s : State) (c : Bool) : (s.skipIf c).run = s.run := by
  unfold State.skipIf; split <;> rfl
@[simp] theorem State.skipIf_reports (s : State) (c : Bool) : (s.skipIf c).reports = s.reports := by
  unfold State.skipIf; split <;> rfl
@[simp] theorem State.skipIf_frames (s : State) (c : Bool) : (s.skipIf c).frames = s.frames := by
  unfold State.skipIf; split <;> rfl
@[simp] theorem State.skipIf_cfg (s : State) (c : Bool) : (s.skipIf c).cfg = s.cfg := by
  unfold State.skipIf; split <;> rfl
@[simp] theorem State.skipIf_phase (s : State) (c : Bool) : (s.skipIf c).phase = s.phase := by
  unfold State.skipIf; split <;> rfl
@[simp] theorem State.skipIf_now (s : State) (c : Bool) : (s.skipIf c).now = s.now := by
  unfold State.skipIf; split <;> rfl
@[simp] theorem State.skipIf_clockFeed (s : State) (c : Bool) : (s.skipIf c).clockFeed = s.clockFeed := by
  unfold State.skipIf; split <;> rfl
@[simp] theorem State.skipIf_draws (s : State) (c : Bool) : (s.skipIf c).draws = s.draws := by
  unfold State.skipIf; split <;> rfl
@[simp] theorem State.skipIf_loaded (s : State) (c : Bool) : (s.skipIf c).loaded = s.loaded := by
  unfold State.skipIf; split <;> rfl

/-! ### `State.subtract` -/

@[simp] theorem State.subtract_v (s : State) (x : Reg) (a b : Byte) : (s.subtract x a b).v = if exceeds a b then (s.v.set x (a - b)).set 15 1 else s.v.set 15 0 := by
  unfold State.subtract; split <;> rfl
@[simp] theorem State.subtract_i (s : State) (x : Reg) (a b : Byte) : (s.subtract x a b).i = s.i := by
  unfold State.subtract; split <;> rfl
@[simp] theorem State.subtract_pc (s : State) (x : Reg) (a b : Byte) : (s.subtract x a b).pc = s.pc := by
  unfold State.subtract; split <;> rfl
@[simp] theorem State.subtract_sp (s : State) (x : Reg) (a b : Byte) : (s.subtract x a b).sp = s.sp := by
  unfold State.subtract; split <;> rfl
@[simp] theorem State.subtract_stack (s : State) (x : Reg) (a b : Byte) : (s.subtract x a b).stack = s.stack := by
  unfold State.subtract; split <;> rfl
@[simp] theorem State.subtract_dt (s : State) (x : Reg) (a b : Byte) : (s.subtract x a b).dt = s.dt := by
  unfold State.subtract; split <;> rfl
@[simp] theorem State.subtract_st (s : State) (x : Reg) (a b : Byte) : (s.subtract x a b).st = s.st := by
  unfold State.subtract; split <;> rfl
@[simp] theorem State.subtract_key (s : State) (x : Reg) (a b : Byte) : (s.subtract x a b).key = s.key := by
  unfold State.subtract; split <;> rfl
@[simp] theorem State.subtract_disp (s : State) (x : Reg) (a b : Byte) : (s.subtract x a b).disp = s.disp := by
  unfold State.subtract; split <;> rfl
@[simp] theorem State.subtract_drawPending (s : State) (x : Reg) (a b : Byte) : (s.subtract x a b).drawPending = s.drawPending := by
  unfold State.subtract; split <;> rfl
@[simp] theorem State.subtract_mem (s : State) (x : Reg) (a b : Byte) : (s.subtract x a b).mem = s.mem := by
  unfold State.subtract; split <;> rfl
@[simp] theorem State.subtract_lastInstructionTick (s : State) (x : Reg) (a b : Byte) : (s.subtract x a b).lastInstructionTick = s.lastInstructionTick := by
  unfold State.subtract; split <;> rfl
@[simp] theorem State.subtract_lastRenderTick (s : State) (x : Reg) (a b : Byte) : (s.subtract x a b).lastRenderTick = s.lastRenderTick := by
  unfold State.subtract; split <;> rfl
@[simp] theorem State.subtract_lastTimerTick (s : State) (x : Reg) (a b : Byte) : (s.subtract x a b).lastTimerTick = s.lastTimerTick := by
  unfold State.subtract; split <;> rfl
@[simp] theorem State.subtract_inq (s : State) (x : Reg) (a b : Byte) : (s.subtract x a b).inq = s.inq := by
  unfold State.subtract; split <;> rfl
@[simp] theorem State.subtract_inqClosed (s : State) (x : Reg) (a b : Byte) : (s.subtract x a b).inqClosed = s.inqClosed := by
  unfold State.subtract; split <;> rfl
@[simp] theorem State.subtract_run (s : State) (x : Reg) (a b : Byte) : (s.subtract x a b).run = s.run := by
  unfold State.subtract; split <;> rfl
@[simp] theorem State.subtract_reports (s : State) (x : Reg) (a b : Byte) : (s.subtract x a b).reports = s.reports := by
  unfold State.subtract; split <;> rfl
@[simp] theorem State.subtract_frames (s : State) (x : Reg) (a b : Byte) : (s.subtract x a b).frames = s.frames := by
  unfold State.subtract; split <;> rfl
@[simp] theorem State.subtract_cfg (s : State) (x : Reg) (a b : Byte) : (s.subtract x a b).cfg = s.cfg := by
  unfold State.subtract; split <;> rfl
@[simp] theorem State.subtract_phase (s : State) (x : Reg) (a b : Byte) : (s.subtract x a b).phase = s.phase := by
  unfold State.subtract; split <;> rfl
@[simp] theorem State.subtract_now (s : State) (x : Reg) (a b : Byte) : (s.subtract x a b).now = s.now := by
  unfold State.subtract; split <;> rfl
@[simp] theorem State.subtract_clockFeed (s : State) (x : Reg) (a b : Byte) : (s.subtract x a b).clockFeed = s.clockFeed := by
  unfold State.subtract; split <;> rfl
@[simp] theorem State.subtract_draws (s : State) (x : Reg) (a b : Byte) : (s.subtract x a b).draws = s.draws := by
  unfold State.subtract; split <;> rfl
@[simp] theorem State.subtract_loaded (s : State) (x : Reg) (a b : Byte) : (s.subtract x a b).loaded = s.loaded := by
  unfold State.subtract; split <;> rfl

/-! ### `State.endCycle` -/

@[simp] theorem State.endCycle_v (s : State) : s.endCycle.v = s.v := by
  unfold State.endCycle; split <;> rfl
@[simp] theorem State.endCycle_i (s : State) : s.endCycle.i = s.i := by
  unfold State.endCycle; split <;> rfl
@[simp] theorem State.endCycle_pc (s : State) : s.endCycle.pc = s.pc := by
  unfold State.endCycle; split <;> rfl
@[simp] theorem State.endCycle_sp (s : State) : s.endCycle.sp = s.sp := by
  unfold State.endCycle; split <;> rfl
@[simp] theorem State.endCycle_stack (s : State) : s.endCycle.stack = s.stack := by
  unfold State.endCycle; split <;> rfl
@[simp] theorem State.endCycle_dt (s : State) : s.endCycle.dt = if s.cfg.timerPerCycle ∧ s.run = .running then countDown s.dt else s.dt := by
  unfold State.endCycle; split <;> rfl
@[simp] theorem State.endCycle_st (s : State) : s.endCycle.st = if s.cfg.timerPerCycle ∧ s.run = .running then countDown s.st else s.st := by
  unfold State.endCycle; split <;> rfl
@[simp] theorem State.endCycle_key (s : State) : s.endCycle.key = s.key := by
  unfold State.endCycle; split <;> rfl
@[simp] theorem State.endCycle_disp (s : State) : s.endCycle.disp = s.disp := by
  unfold State.endCycle; split <;> rfl
@[simp] theorem State.endCycle_drawPending (s : State) : s.endCycle.drawPending = s.drawPending := by
  unfold State.endCycle; split <;> rfl
@[simp] theorem State.endCycle_mem (s : State) : s.endCycle.mem = s.mem := by
  unfold State.endCycle; split <;> rfl
@[simp] theorem State.endCycle_lastInstructionTick (s : State) : s.endCycle.lastInstructionTick = s.lastInstructionTick := by
  unfold State.endCycle; split <;> rfl
@[simp] theorem State.endCycle_lastRenderTick (s : State) : s.endCycle.lastRenderTick = s.lastRenderTick := by
  unfold State.endCycle; split <;> rfl
@[simp] theorem State.endCycle_lastTimerTick (s : State) : s.endCycle.lastTimerTick = s.lastTimerTick := by
  unfold State.endCycle; split <;> rfl
@[simp] theorem State.endCycle_inq (s : State) : s.endCycle.inq = s.inq := by
  unfold State.endCycle; split <;> rfl
@[simp] theorem State.endCycle_inqClosed (s : State) : s.endCycle.inqClosed = s.inqClosed := by
  unfold State.endCycle; split <;> rfl
@[simp] theorem State.endCycle_run (s : State) : s.endCycle.run = s.run := by
  unfold State.endCycle; split <;> rfl
@[simp] theorem State.endCycle_reports (s : State) : s.endCycle.reports = s.reports := by
  unfold State.endCycle; split <;> rfl
@[simp] theorem State.endCycle_frames (s : State) : s.endCycle.frames = s.frames := by
  unfold State.endCycle; split <;> rfl
@[simp] theorem State.endCycle_cfg (s : State) : s.endCycle.cfg = s.cfg := by
  unfold State.endCycle; split <;> rfl
@[simp] theorem State.endCycle_phase (s : State) : s.endCycle.phase = s.phase := by
  unfold State.endCycle; split <;> rfl
@[simp] theorem State.endCycle_now (s : State) : s.endCycle.now = s.now := by
  unfold State.endCycle; split <;> rfl
@[simp] theorem State.endCycle_clockFeed (s : State) : s.endCycle.clockFeed = s.clockFeed := by
  unfold State.endCycle; split <;> rfl
@[simp] theorem State.endCycle_draws (s : State) : s.endCycle.draws = s.draws := by
  unfold State.endCycle; split <;> rfl
@[simp] theorem State.endCycle_loaded (s : State) : s.endCycle.loaded = s.loaded := by
  unfold State.endCycle; split <;> rfl

/-! ### `State.readClock` -/

@[simp] theorem State.readClock_v (s : State) (d : Nat) : (s.readClock d).v = s.v := by
  unfold State.readClock; split <;> rfl
@[simp] theorem State.readClock_i (s : State) (d : Nat) : (s.readClock d).i = s.i := by
  unfold State.readClock; split <;> rfl
@[simp] theorem State.readClock_pc (s : State) (d : Nat) : (s.readClock d).pc = s.pc := by
  unfold State.readClock; split <;> rfl
@[simp] theorem State.readClock_sp (s : State) (d : Nat) : (s.readClock d).sp = s.sp := by
  unfold State.readClock; split <;> rfl
@[simp] theorem State.readClock_stack (s : State) (d : Nat) : (s.readClock d).stack = s.stack := by
  unfold State.readClock; split <;> rfl
@[simp] theorem State.readClock_dt (s : State) (d : Nat) : (s.readClock d).dt = s.dt := by
  unfold State.readClock; split <;> rfl
@[simp] theorem State.readClock_st (s : State) (d : Nat) : (s.readClock d).st = s.st := by
  unfold State.readClock; split <;> rfl
@[simp] theorem State.readClock_key (s : State) (d : Nat) : (s.readClock d).key = s.key := by
  unfold State.readClock; split <;> rfl
@[simp] theorem State.readClock_disp (s : State) (d : Nat) : (s.readClock d).disp = s.disp := by
  unfold State.readClock; split <;> rfl
@[simp] theorem State.readClock_drawPending (s : State) (d : Nat) : (s.readClock d).drawPending = s.drawPending := by
  unfold State.readClock; split <;> rfl
@[simp] theorem State.readClock_mem (s : State) (d : Nat) : (s.readClock d).mem = s.mem := by
  unfold State.readClock; split <;> rfl
@[simp] theorem State.readClock_lastInstructionTick (s : State) (d : Nat) : (s.readClock d).lastInstructionTick = s.lastInstructionTick := by
  unfold State.readClock; split <;> rfl
@[simp] theorem State.readClock_lastRenderTick (s : State) (d : Nat) : (s.readClock d).lastRenderTick = s.lastRenderTick := by
  unfold State.readClock; split <;> rfl
@[simp] theorem State.readClock_lastTimerTick (s : State) (d : Nat) : (s.readClock d).lastTimerTick = s.lastTimerTick := by
  unfold State.readClock; split <;> rfl
@[simp] theorem State.readClock_inq (s : State) (d : Nat) : (s.readClock d).inq = s.inq := by
  unfold State.readClock; split <;> rfl
@[simp] theorem State.readClock_inqClosed (s : State) (d : Nat) : (s.readClock d).inqClosed = s.inqClosed := by
  unfold State.readClock; split <;> rfl
@[simp] theorem State.readClock_run (s : State) (d : Nat) : (s.readClock d).run = s.run := by
  unfold State.readClock; split <;> rfl
@[simp] theorem State.readClock_reports (s : State) (d : Nat) : (s.readClock d).reports = s.reports := by
  unfold State.readClock; split <;> rfl
@[simp] theorem State.readClock_frames (s : State) (d : Nat) : (s.readClock d).frames = s.frames := by
  unfold State.readClock; split <;> rfl
@[simp] theorem State.readClock_cfg (s : State) (d : Nat) : (s.readClock d).cfg = s.cfg := by
  unfold State.readClock; split <;> rfl
@[simp] theorem State.readClock_phase (s : State) (d : Nat) : (s.readClock d).phase = s.phase := by
  unfold State.readClock; split <;> rfl
@[simp] theorem State.readClock_draws (s : State) (d : Nat) : (s.readClock d).draws = s.draws := by
  unfold State.readClock; split <;> rfl
@[simp] theorem State.readClock_loaded (s : State) (d : Nat) : (s.readClock d).loaded = s.loaded := by
  unfold State.readClock; split <;> rfl

/-! ### `State.draw` -/

@[simp] theorem State.draw_v (s : State) : s.draw.2.v = s.v := rfl
@[simp] theorem State.draw_i (s : State) : s.draw.2.i = s.i := rfl
@[simp] theorem State.draw_pc (s : State) : s.draw.2.pc = s.pc := rfl
@[simp] theorem State.draw_sp (s : State) : s.draw.2.sp = s.sp := rfl
@[simp] theorem State.draw_stack (s : State) : s.draw.2.stack = s.stack := rfl
@[simp] theorem State.draw_dt (s : State) : s.draw.2.dt = s.dt := rfl
@[simp] theorem State.draw_st (s : State) : s.draw.2.st = s.st := rfl
@[simp] theorem State.draw_key (s : State) : s.draw.2.key = s.key := rfl
@[simp] theorem State.draw_disp (s : State) : s.draw.2.disp = s.disp := rfl
@[simp] theorem State.draw_drawPending (s : State) : s.draw.2.drawPending = s.drawPending := rfl
@[simp] theorem State.draw_mem (s : State) : s.draw.2.mem = s.mem := rfl
@[simp] theorem State.draw_lastInstructionTick (s : State) : s.draw.2.lastInstructionTick = s.lastInstructionTick := rfl
@[simp] theorem State.draw_lastRenderTick (s : State) : s.draw.2.lastRenderTick = s.lastRenderTick := rfl
@[simp] theorem State.draw_lastTimerTick (s : State) : s.draw.2.lastTimerTick = s.lastTimerTick := rfl
@[simp] theorem State.draw_inq (s : State) : s.draw.2.inq = s.inq := rfl
@[simp] theorem State.draw_inqClosed (s : State) : s.draw.2.inqClosed = s.inqClosed := rfl
@[simp] theorem State.draw_run (s : State) : s.draw.2.run = s.run := rfl
@[simp] theorem State.draw_reports (s : State) : s.draw.2.reports = s.reports := rfl
@[simp] theorem State.draw_frames (s : State) : s.draw.2.frames = s.frames := rfl
@[simp] theorem State.draw_cfg (s : State) : s.draw.2.cfg = s.cfg := rfl
@[simp] theorem State.draw_phase (s : State) : s.draw.2.phase = s.phase := rfl
@[simp] theorem State.draw_now (s : State) : s.draw.2.now = s.now := rfl
@[simp] theorem State.draw_clockFeed (s : State) : s.draw.2.clockFeed = s.clockFeed := rfl
@[simp] theorem State.draw_draws (s : State) : s.draw.2.draws = s.draws + 1 := rfl
@[simp] theorem State.draw_loaded (s : State) : s.draw.2.loaded = s.loaded := rfl

/-- A setting of one field to what it holds changes nothing. -/
@[simp] theorem State.setPc_self (s : State) : s.setPc s.pc = s := rfl

/-- Rolling `pc` back undoes the advance (R123, R302), at every value of `pc`. -/
@[simp] theorem State.raiseInInstr_advancePc (s : State) (c : Cause) :
    s.advancePc.raiseInInstr c = s.raise s.pc c := by
  simp [State.raiseInInstr, State.raise, State.advancePc, State.setPc]

end Sys2Proof.Machine
end

