-- ==== Sys2Proof/Laws/Decode.lean ====
section
/-! SUPPORT. The fields of a word and the words of the formats, as numbers (spec/30_encoding.md R91, R92), and each field
of each format. -/

namespace Sys2Proof

open Sys2Proof.Machine

/-! ### Fields as numbers (R91) -/

theorem toNat_fieldOP (w : Word) : (fieldOP w).toNat = w.toNat / 4096 := by
  have := w.isLt
  simp only [fieldOP, BitVec.extractLsb'_toNat, Nat.shiftRight_eq_div_pow]
  omega

/-- A 4-bit field names the register of its own value (R20). -/
@[simp] theorem val_regOfField (f : BitVec 4) : (regOfField f).val = f.toNat := Nat.mod_eq_of_lt f.isLt

@[simp] theorem toNat_fieldOfReg (r : Reg) : (fieldOfReg r).toNat = r.val := Nat.mod_eq_of_lt r.isLt

@[simp] theorem fieldOfReg_zero : fieldOfReg 0 = 0 := rfl

@[simp] theorem regOfField_fieldOfReg (r : Reg) : regOfField (fieldOfReg r) = r :=
  Fin.ext (by rw [val_regOfField, toNat_fieldOfReg])

@[simp] theorem fieldOfReg_regOfField (f : BitVec 4) : fieldOfReg (regOfField f) = f :=
  BitVec.eq_of_toNat_eq (by rw [toNat_fieldOfReg, val_regOfField])

theorem val_fieldX (w : Word) : (fieldX w).val = w.toNat / 256 % 16 := by
  simp only [fieldX, val_regOfField, BitVec.extractLsb'_toNat, Nat.shiftRight_eq_div_pow]

theorem val_fieldY (w : Word) : (fieldY w).val = w.toNat / 16 % 16 := by
  simp only [fieldY, val_regOfField, BitVec.extractLsb'_toNat, Nat.shiftRight_eq_div_pow]

theorem toNat_fieldN (w : Word) : (fieldN w).toNat = w.toNat % 16 := by
  simp only [fieldN, BitVec.extractLsb'_toNat, Nat.shiftRight_zero]

theorem toNat_fieldKK (w : Word) : (fieldKK w).toNat = w.toNat % 256 := by
  simp only [fieldKK, BitVec.extractLsb'_toNat, Nat.shiftRight_zero]

theorem toNat_fieldNNN (w : Word) : (fieldNNN w).toNat = w.toNat % 4096 := by
  simp only [fieldNNN, BitVec.extractLsb'_toNat, Nat.shiftRight_zero]

/-! ### Words of the formats as numbers (R92) -/

theorem toNat_append_eq {m n : Nat} (a : BitVec m) (b : BitVec n) : (a ++ b).toNat = a.toNat * 2 ^ n + b.toNat := by
  rw [BitVec.toNat_append, ← Nat.shiftLeft_add_eq_or_of_lt b.isLt, Nat.shiftLeft_eq]

theorem toNat_encNNN (op : BitVec 4) (nnn : BitVec 12) : (encNNN op nnn).toNat = 4096 * op.toNat + nnn.toNat := by
  simp only [encNNN, toNat_append_eq]; omega

theorem toNat_encXKK (op : BitVec 4) (x : Reg) (kk : Byte) :
    (encXKK op x kk).toNat = 4096 * op.toNat + 256 * x.val + kk.toNat := by
  simp only [encXKK, toNat_append_eq, toNat_fieldOfReg]; omega

theorem toNat_encXYN (op : BitVec 4) (x y : Reg) (n : BitVec 4) :
    (encXYN op x y n).toNat = 4096 * op.toNat + 256 * x.val + 16 * y.val + n.toNat := by
  simp only [encXYN, toNat_append_eq, toNat_fieldOfReg]; omega

/-! ### Each field of each format -/

@[simp] theorem fieldOP_encNNN (op : BitVec 4) (nnn : BitVec 12) : fieldOP (encNNN op nnn) = op := by
  apply BitVec.eq_of_toNat_eq; rw [toNat_fieldOP, toNat_encNNN]; have := nnn.isLt; omega

@[simp] theorem fieldNNN_encNNN (op : BitVec 4) (nnn : BitVec 12) : fieldNNN (encNNN op nnn) = nnn := by
  apply BitVec.eq_of_toNat_eq; rw [toNat_fieldNNN, toNat_encNNN]; have := nnn.isLt; omega

@[simp] theorem fieldOP_encXKK (op : BitVec 4) (x : Reg) (kk : Byte) : fieldOP (encXKK op x kk) = op := by
  apply BitVec.eq_of_toNat_eq; rw [toNat_fieldOP, toNat_encXKK]; have := kk.isLt; have := reg_lt x; omega

@[simp] theorem fieldX_encXKK (op : BitVec 4) (x : Reg) (kk : Byte) : fieldX (encXKK op x kk) = x := by
  apply Fin.ext; rw [val_fieldX, toNat_encXKK]; have := kk.isLt; have := reg_lt x; omega

@[simp] theorem fieldKK_encXKK (op : BitVec 4) (x : Reg) (kk : Byte) : fieldKK (encXKK op x kk) = kk := by
  apply BitVec.eq_of_toNat_eq; rw [toNat_fieldKK, toNat_encXKK]; have := kk.isLt; omega

@[simp] theorem fieldOP_encXYN (op : BitVec 4) (x y : Reg) (n : BitVec 4) : fieldOP (encXYN op x y n) = op := by
  apply BitVec.eq_of_toNat_eq; rw [toNat_fieldOP, toNat_encXYN]; have := reg_lt x; have := reg_lt y; have := n.isLt; omega

@[simp] theorem fieldX_encXYN (op : BitVec 4) (x y : Reg) (n : BitVec 4) : fieldX (encXYN op x y n) = x := by
  apply Fin.ext; rw [val_fieldX, toNat_encXYN]; have := reg_lt x; have := reg_lt y; have := n.isLt; omega

@[simp] theorem fieldY_encXYN (op : BitVec 4) (x y : Reg) (n : BitVec 4) : fieldY (encXYN op x y n) = y := by
  apply Fin.ext; rw [val_fieldY, toNat_encXYN]; have := reg_lt y; have := n.isLt; omega

@[simp] theorem fieldN_encXYN (op : BitVec 4) (x y : Reg) (n : BitVec 4) : fieldN (encXYN op x y n) = n := by
  apply BitVec.eq_of_toNat_eq; rw [toNat_fieldN, toNat_encXYN]; have := n.isLt; omega

/-! ### Bytes of a word (R63) -/

theorem toNat_highByte (w : Word) : (highByte w).toNat = w.toNat / 256 := by
  have := w.isLt
  simp only [highByte, BitVec.extractLsb'_toNat, Nat.shiftRight_eq_div_pow]; omega

theorem toNat_lowByte (w : Word) : (lowByte w).toNat = w.toNat % 256 := by
  simp only [lowByte, BitVec.extractLsb'_toNat, Nat.shiftRight_zero]

/-- A word laid out and read back (R63). -/
@[simp] theorem wordOfBytes_high_low (w : Word) : wordOfBytes (highByte w) (lowByte w) = w := by
  apply BitVec.eq_of_toNat_eq
  rw [wordOfBytes, toNat_append_eq, toNat_highByte, toNat_lowByte]; omega

end Sys2Proof
end

