-- ==== Sys2Proof/Laws/Memory.lean ====
section
/-! SUPPORT. The laws of memory (spec/20_memory.md R66, R67, R73): a read after a write, the canonical form kept by
every operation, and that two canonical memories that read alike are the same list. -/

namespace Sys2Proof.Machine

variable {font : Vector Byte Config.fontLen} {m : List Host.Cell}

/-! ### Lookup after insert and erase -/

@[simp] theorem Memory.lookup_nil (a : Nat) : Memory.lookup a [] = none := rfl

theorem Memory.lookup_cons (a k : Nat) (b : Byte) (rest : List Host.Cell) :
    Memory.lookup a ((k, b) :: rest) = if a = k then some b else Memory.lookup a rest := rfl

theorem Memory.lookup_insert (a : Nat) (b : Byte) (k : Nat) (m : List Host.Cell) :
    Memory.lookup k (Memory.insert a b m) = if k = a then some b else Memory.lookup k m := by
  induction m with
  | nil => simp [Memory.insert, Memory.lookup_cons]
  | cons c rest ih =>
    obtain ⟨j, c⟩ := c
    simp only [Memory.insert]
    split
    · simp only [Memory.lookup_cons]
    · split
      · subst_vars
        simp only [Memory.lookup_cons]
        split <;> simp_all
      · simp only [Memory.lookup_cons, ih]
        split <;> split <;> simp_all

/-- An address below every listed one is not listed. -/
theorem Memory.lookup_eq_none_of_lt {a : Nat} (h : ∀ c ∈ m, a < c.1) : Memory.lookup a m = none := by
  induction m with
  | nil => rfl
  | cons c rest ih =>
    have hc := h c (by simp)
    rw [show c = (c.1, c.2) from rfl, Memory.lookup_cons, if_neg (by omega)]
    exact ih fun d hd => h d (by simp [hd])

theorem Memory.lookup_erase (hs : m.Pairwise (fun p q => p.1 < q.1)) (a k : Nat) :
    Memory.lookup k (Memory.erase a m) = if k = a then none else Memory.lookup k m := by
  induction m with
  | nil => simp [Memory.erase]
  | cons c rest ih =>
    obtain ⟨j, c⟩ := c
    obtain ⟨hlt, hr⟩ := List.pairwise_cons.1 hs
    simp only [Memory.erase]
    split
    · subst_vars
      simp only [Memory.lookup_cons]
      split
      · subst_vars; exact Memory.lookup_eq_none_of_lt hlt
      · rfl
    · simp only [Memory.lookup_cons, ih hr]
      split <;> split <;> simp_all

/-! ### Read after write -/

/-- A read after a write: the byte written at its own address, the old byte at every other (R67, R73). -/
theorem Memory.read_write (hs : m.Pairwise (fun p q => p.1 < q.1)) (a : Nat) (b : Byte) (k : Nat) :
    Memory.read font (Memory.write font m a b) k = if k = a then b else Memory.read font m k := by
  unfold Memory.read Memory.write
  split
  · rw [Memory.lookup_erase hs]
    split <;> simp_all
  · rw [Memory.lookup_insert]
    split <;> rfl

/-! ### The canonical form -/

theorem Memory.mem_insert {a : Nat} {b : Byte} {c : Host.Cell} (h : c ∈ Memory.insert a b m) :
    c = (a, b) ∨ c ∈ m := by
  induction m with
  | nil => simpa [Memory.insert] using h
  | cons d rest ih =>
    obtain ⟨j, d⟩ := d
    simp only [Memory.insert] at h
    split at h
    · simpa using h
    · split at h
      · simp only [List.mem_cons] at h ⊢
        tauto
      · rcases List.mem_cons.1 h with h | h
        · simp [h]
        · rcases ih h with h | h <;> simp [h]

theorem Memory.mem_erase {a : Nat} {c : Host.Cell} (h : c ∈ Memory.erase a m) : c ∈ m := by
  induction m with
  | nil => simp [Memory.erase] at h
  | cons d rest ih =>
    obtain ⟨j, d⟩ := d
    simp only [Memory.erase] at h
    split at h
    · simp [h]
    · rcases List.mem_cons.1 h with h | h
      · simp [h]
      · simp [ih h]

theorem Memory.sorted_insert (hs : m.Pairwise (fun p q => p.1 < q.1)) (a : Nat) (b : Byte) :
    (Memory.insert a b m).Pairwise (fun p q => p.1 < q.1) := by
  induction m with
  | nil => simp [Memory.insert]
  | cons d rest ih =>
    obtain ⟨j, d⟩ := d
    obtain ⟨hlt, hr⟩ := List.pairwise_cons.1 hs
    simp only [Memory.insert]
    split
    · refine List.pairwise_cons.2 ⟨fun c hc => ?_, hs⟩
      rcases List.mem_cons.1 hc with rfl | hc
      · assumption
      · exact Nat.lt_trans ‹a < j› (hlt c hc)
    · split
      · subst_vars
        exact List.pairwise_cons.2 ⟨hlt, hr⟩
      · refine List.pairwise_cons.2 ⟨fun c hc => ?_, ih hr⟩
        rcases Memory.mem_insert hc with rfl | hc
        · show j < a
          omega
        · exact hlt c hc

theorem Memory.sorted_erase (hs : m.Pairwise (fun p q => p.1 < q.1)) (a : Nat) :
    (Memory.erase a m).Pairwise (fun p q => p.1 < q.1) := by
  induction m with
  | nil => simp [Memory.erase]
  | cons d rest ih =>
    obtain ⟨j, d⟩ := d
    obtain ⟨hlt, hr⟩ := List.pairwise_cons.1 hs
    simp only [Memory.erase]
    split
    · exact hr
    · exact List.pairwise_cons.2 ⟨fun c hc => hlt c (Memory.mem_erase hc), ih hr⟩

/-- The empty list is canonical; it is the memory after reset (R46). -/
theorem Memory.wf_nil : Memory.wf font [] := by simp [Memory.wf]

/-- A write inside the Memory Image keeps the canonical form. -/
theorem Memory.wf_write (h : Memory.wf font m) {a : Nat} (ha : a < Config.memSize) (b : Byte) :
    Memory.wf font (Memory.write font m a b) := by
  unfold Memory.write
  split
  · exact ⟨Memory.sorted_erase h.1 a, fun c hc => h.2 c (Memory.mem_erase hc)⟩
  · refine ⟨Memory.sorted_insert h.1 a b, fun c hc => ?_⟩
    rcases Memory.mem_insert hc with rfl | hc
    · exact ⟨ha, by assumption⟩
    · exact h.2 c hc

/-- Writes inside the Memory Image keep the canonical form. -/
theorem Memory.wf_writeBytes (bs : List Byte) {a : Nat} (h : Memory.wf font m)
    (ha : a + bs.length ≤ Config.memSize) : Memory.wf font (Memory.writeBytes font a bs m) := by
  induction bs generalizing a m with
  | nil => exact h
  | cons b bs ih =>
    simp only [List.length_cons] at ha
    exact ih (Memory.wf_write h (by omega) b) (by omega)

theorem Memory.sorted_write (hs : m.Pairwise (fun p q => p.1 < q.1)) (a : Nat) (b : Byte) :
    (Memory.write font m a b).Pairwise (fun p q => p.1 < q.1) := by
  unfold Memory.write
  split
  · exact Memory.sorted_erase hs a
  · exact Memory.sorted_insert hs a b

/-- A read after several writes: byte `k - a` of those written inside their range, the old byte outside (R73). -/
theorem Memory.read_writeBytes (bs : List Byte) (hs : m.Pairwise (fun p q => p.1 < q.1)) (a k : Nat) :
    Memory.read font (Memory.writeBytes font a bs m) k =
      if a ≤ k ∧ k - a < bs.length then bs.getD (k - a) 0 else Memory.read font m k := by
  induction bs generalizing a m with
  | nil => simp [Memory.writeBytes]
  | cons b bs ih =>
    rw [Memory.writeBytes, ih (Memory.sorted_write hs a b), Memory.read_write hs]
    by_cases h1 : k = a
    · subst h1
      simp
    · by_cases h2 : a + 1 ≤ k ∧ k - (a + 1) < bs.length
      · have : k - a = (k - (a + 1)) + 1 := by omega
        rw [if_pos h2, if_pos ⟨by omega, by simp only [List.length_cons]; omega⟩, this]
        simp
      · rw [if_neg h2, if_neg h1, if_neg (by simp only [List.length_cons]; omega)]

/-! ### Equal memories are equal lists -/

theorem Memory.lookup_of_mem (hs : m.Pairwise (fun p q => p.1 < q.1)) {a : Nat} {b : Byte}
    (h : (a, b) ∈ m) : Memory.lookup a m = some b := by
  induction m with
  | nil => simp at h
  | cons d rest ih =>
    obtain ⟨j, d⟩ := d
    obtain ⟨hlt, hr⟩ := List.pairwise_cons.1 hs
    rw [Memory.lookup_cons]
    rcases List.mem_cons.1 h with h | h
    · simp_all
    · have hj : j < a := hlt _ h
      rw [if_neg (by omega)]
      exact ih hr h

theorem Memory.mem_of_lookup {a : Nat} {b : Byte} (h : Memory.lookup a m = some b) : (a, b) ∈ m := by
  induction m with
  | nil => simp at h
  | cons d rest ih =>
    obtain ⟨j, d⟩ := d
    rw [Memory.lookup_cons] at h
    split at h
    · simp_all
    · simp [ih h]

/-- In a canonical memory a cell is listed exactly when its address reads as something else than its reset image. -/
theorem Memory.mem_iff (h : Memory.wf font m) (a : Nat) (b : Byte) :
    (a, b) ∈ m ↔ Memory.read font m a = b ∧ b ≠ resetImage font a := by
  constructor
  · intro hm
    have := Memory.lookup_of_mem h.1 hm
    exact ⟨by simp [Memory.read, this], (h.2 _ hm).2⟩
  · rintro ⟨hr, hne⟩
    apply Memory.mem_of_lookup
    unfold Memory.read at hr
    cases hl : Memory.lookup a m with
    | none => simp [hl] at hr; exact absurd hr.symm hne
    | some c => simp [hl] at hr; rw [hr]

/-- Two strictly rising lists with the same members are the same list. -/
theorem Memory.ext_of_sorted {m₁ m₂ : List Host.Cell} (h₁ : m₁.Pairwise (fun p q => p.1 < q.1))
    (h₂ : m₂.Pairwise (fun p q => p.1 < q.1)) (h : ∀ c, c ∈ m₁ ↔ c ∈ m₂) : m₁ = m₂ := by
  have n₁ : m₁.Nodup := h₁.imp fun {p q} hpq hne => by simp [hne] at hpq
  have n₂ : m₂.Nodup := h₂.imp fun {p q} hpq hne => by simp [hne] at hpq
  refine List.Perm.eq_of_pairwise (le := fun p q : Host.Cell => p.1 < q.1) ?_ h₁ h₂
    ((List.perm_ext_iff_of_nodup n₁ n₂).2 h)
  intro a b _ _ hab hba
  exact absurd (Nat.lt_trans hab hba) (Nat.lt_irrefl _)

/-- Canonical memories that read alike are equal data. -/
theorem Memory.ext {m₁ m₂ : List Host.Cell} (h₁ : Memory.wf font m₁) (h₂ : Memory.wf font m₂)
    (h : ∀ a, Memory.read font m₁ a = Memory.read font m₂ a) : m₁ = m₂ :=
  Memory.ext_of_sorted h₁.1 h₂.1 fun c => by
    rw [show c = (c.1, c.2) from rfl, Memory.mem_iff h₁, Memory.mem_iff h₂, h]

/-! ### The state's reads and stores -/

/-- A read after a store, at the state's level (R67, R73). -/
theorem State.readByte_storeBytes (s : State) (hs : s.mem.Pairwise (fun p q => p.1 < q.1)) (a : Nat)
    (bs : List Byte) (k : Nat) :
    (s.storeBytes a bs).readByte k =
      if a ≤ k ∧ k - a < bs.length then bs.getD (k - a) 0 else s.readByte k :=
  Memory.read_writeBytes bs hs a k

/-- A read depends on nothing but the listed cells and the font. -/
theorem State.readByte_congr {s t : State} (hm : t.mem = s.mem) (hc : t.cfg = s.cfg) (a : Nat) :
    t.readByte a = s.readByte a := by
  unfold State.readByte; rw [hm, hc]

@[simp] theorem State.length_readBytes (s : State) (a n : Nat) : (s.readBytes a n).length = n := by
  simp [State.readBytes]

theorem State.getElem_readBytes (s : State) (a n k : Nat) (h : k < (s.readBytes a n).length) :
    (s.readBytes a n)[k] = s.readByte (a + k) := by
  simp [State.readBytes]

end Sys2Proof.Machine
end

