-- ==== Sys2Proof/Laws/Ops.lean ====
section
/-! SUPPORT. One lemma per shared operation, saying once everything it can do. -/

namespace Sys2Proof.Machine

/-! ### Registers -/

theorem State.reg_setReg (s : State) (x : Reg) (b : Byte) (r : Reg) :
    (s.setReg x b).reg r = if r = x then b else s.reg r := by
  simp only [State.reg, State.setReg, Fin.getElem_fin, Vector.getElem_set]
  split <;> split <;> simp_all [Fin.ext_iff]

@[simp] theorem State.reg_setReg_self (s : State) (x : Reg) (b : Byte) : (s.setReg x b).reg x = b := by
  simp [State.reg_setReg]

theorem State.reg_setReg_of_ne (s : State) {x r : Reg} (b : Byte) (h : r ≠ x) :
    (s.setReg x b).reg r = s.reg r := by
  simp [State.reg_setReg, h]

/-- A register read depends on the register file alone. -/
theorem State.reg_congr {s t : State} (h : t.v = s.v) (r : Reg) : t.reg r = s.reg r := by
  simp [State.reg, h]

@[simp] theorem State.reg_setPc (s : State) (w : Word) (r : Reg) : (s.setPc w).reg r = s.reg r := rfl
@[simp] theorem State.reg_setI (s : State) (w : Word) (r : Reg) : (s.setI w).reg r = s.reg r := rfl
@[simp] theorem State.reg_showDisplay (s : State) (d : Display) (r : Reg) :
    (s.showDisplay d).reg r = s.reg r := rfl
@[simp] theorem State.reg_draw (s : State) (r : Reg) : s.draw.2.reg r = s.reg r := rfl

/-- The flag write (R23). -/
theorem State.reg_setFlag (s : State) (f : Bool) (r : Reg) :
    (s.setFlag f).reg r = if r = 15 then flagByte f else s.reg r := State.reg_setReg s 15 _ r

/-- Data first, flag last (R24, R161). -/
theorem State.reg_setRegFlag (s : State) (x : Reg) (b : Byte) (f : Bool) (r : Reg) :
    (s.setRegFlag x b f).reg r = if r = 15 then flagByte f else if r = x then b else s.reg r := by
  rw [State.setRegFlag, State.reg_setFlag, State.reg_setReg]

/-- The conditional subtraction of R169 and R171. -/
theorem State.reg_subtract (s : State) (x : Reg) (a b : Byte) (r : Reg) :
    (s.subtract x a b).reg r =
      if r = 15 then flagByte (exceeds a b)
      else if r = x ∧ b.toNat < a.toNat then a - b else s.reg r := by
  unfold State.subtract
  by_cases h : exceeds a b = true
  · have hlt : b.toNat < a.toNat := by simpa [exceeds] using h
    simp [h, State.reg_setRegFlag, hlt]
  · have hlt : ¬ b.toNat < a.toNat := by simpa [exceeds] using h
    simp [h, State.reg_setFlag, hlt]

theorem writeRegs_getElem (bs : List Byte) (k : Nat) (v : Vector Byte 16) (j : Nat) (hj : j < 16) :
    (writeRegs k bs v)[j] = if k ≤ j ∧ j - k < bs.length then bs.getD (j - k) 0 else v[j] := by
  induction bs generalizing k v with
  | nil => simp [writeRegs]
  | cons b bs ih =>
    rw [writeRegs, ih]
    by_cases h1 : j = k
    · subst h1
      simp [hj]
    · by_cases h2 : k + 1 ≤ j ∧ j - (k + 1) < bs.length
      · have : j - k = (j - (k + 1)) + 1 := by omega
        rw [if_pos h2, if_pos ⟨by omega, by simp only [List.length_cons]; omega⟩, this]
        simp
      · rw [if_neg h2, if_neg (by simp only [List.length_cons]; omega)]
        split
        · rw [Vector.getElem_set, if_neg (by omega)]
        · rfl

/-- Registers loaded from bytes: register `r` holds byte `r` when there is one (R196). -/
theorem State.reg_setRegsFrom (s : State) (bs : List Byte) (r : Reg) :
    (s.setRegsFrom bs).reg r = if r.val < bs.length then bs.getD r.val 0 else s.reg r := by
  have := writeRegs_getElem bs 0 s.v r.val r.isLt
  simpa [State.reg, State.setRegsFrom] using this

@[simp] theorem State.length_regsUpTo (s : State) (x : Reg) : (s.regsUpTo x).length = x.val + 1 := by
  have := x.isLt
  simp only [State.regsUpTo, List.length_take, Vector.length_toList]
  omega

theorem State.getD_regsUpTo (s : State) (x r : Reg) (h : r ≤ x) : (s.regsUpTo x).getD r.val 0 = s.reg r := by
  have hx : r.val ≤ x.val := h
  have hr : r.val < (s.regsUpTo x).length := by rw [State.length_regsUpTo]; omega
  rw [List.getD_eq_getElem _ _ hr]
  simp [State.regsUpTo, State.reg]

/-! ### The range check -/

/-- No address of the access is outside the Memory Image (R62). -/
theorem rangeFault_eq_none {base len : Nat} : rangeFault base len = none ↔ len = 0 ∨ base + len ≤ Config.memSize := by
  unfold rangeFault; split <;> simp_all

/-- The offending address is the lowest one above `MEM_SIZE - 1` (R62, R66). -/
theorem rangeFault_eq_some {base len a : Nat} :
    rangeFault base len = some a ↔
      len ≠ 0 ∧ Config.memSize < base + len ∧ a = max base Config.memSize := by
  unfold rangeFault
  split
  · simp only [reduceCtorEq, false_iff]; omega
  · simp only [Option.some.injEq]; omega

/-- A checked instruction either has the effect or raises the fault, and answers a next state both ways. -/
theorem State.checkRange_cases (s : State) (base len : Nat) (k : State) :
    (rangeFault base len = none ∧ s.checkRange base len k = .next k) ∨
    (∃ a, rangeFault base len = some a ∧
      s.checkRange base len k = .next (s.raiseInInstr (.addressOutOfRange a))) := by
  unfold State.checkRange
  cases h : rangeFault base len with
  | none => exact .inl ⟨rfl, rfl⟩
  | some a => exact .inr ⟨a, rfl, rfl⟩

theorem State.checkRange_ok {s : State} {base len : Nat} (k : State) (h : base + len ≤ Config.memSize) :
    s.checkRange base len k = .next k := by
  rw [State.checkRange, rangeFault_eq_none.2 (.inr h)]

theorem State.checkRange_zero {s : State} {base : Nat} (k : State) : s.checkRange base 0 k = .next k := by
  rw [State.checkRange, rangeFault_eq_none.2 (.inl rfl)]

theorem State.checkRange_fault {s : State} {base len : Nat} (k : State) (hl : len ≠ 0)
    (h : Config.memSize < base + len) :
    s.checkRange base len k = .next (s.raiseInInstr (.addressOutOfRange (max base Config.memSize))) := by
  rw [State.checkRange, rangeFault_eq_some.2 ⟨hl, h, rfl⟩]

/-! ### The call stack -/

/-- A push with room (R31). -/
theorem State.push_eq_some (s : State) (w : Word) (h : s.sp.val < 16) :
    s.push w = some { s with stack := s.stack.set s.sp.val w, sp := ⟨s.sp.val + 1, Nat.succ_lt_succ h⟩ } := by
  rw [State.push, dif_pos h]

/-- A push on a full stack fails (R31). -/
theorem State.push_eq_none (s : State) (w : Word) (h : s.sp.val = 16) : s.push w = none := by
  rw [State.push, dif_neg (by simp [h])]

/-- A pop of a stack that holds something (R31). -/
theorem State.pop_eq_some (s : State) (h : 0 < s.sp.val) :
    s.pop = some (s.stack[s.sp.val - 1]'(by have := s.sp.isLt; omega),
      { s with sp := ⟨s.sp.val - 1, by have := s.sp.isLt; omega⟩ }) := by
  rw [State.pop, dif_pos h]

/-- A pop of an empty stack fails (R31). -/
theorem State.pop_eq_none (s : State) (h : s.sp = 0) : s.pop = none := by
  rw [State.pop, dif_neg (by simp [h])]

/-! ### Timers, keys, flags -/

/-- A timer counts down and stops at 0 (R32, R259). -/
theorem countDown_toNat (b : Byte) : (countDown b).toNat = b.toNat - 1 := by
  unfold countDown
  split
  · simp_all
  · have hb : b.toNat ≠ 0 := fun h => by
      apply ‹¬ b = 0›
      exact BitVec.eq_of_toNat_eq h
    have := b.isLt
    rw [BitVec.toNat_sub]
    simp
    omega

/-- The least pressed key (R233). -/
theorem State.firstPressed_eq_some {s : State} {k : Fin 16} :
    s.firstPressed = some k ↔ s.key[k] = true ∧ ∀ j : Fin 16, j < k → s.key[j] = false := by
  unfold State.firstPressed
  rw [List.find?_eq_some_iff_getElem]
  constructor
  · rintro ⟨hk, i, hi, rfl, hlt⟩
    refine ⟨hk, fun j hj => ?_⟩
    have hj' : j.val < i := by simpa [Fin.lt_def] using hj
    have := hlt j.val hj'
    simpa using this
  · rintro ⟨hk, hlt⟩
    refine ⟨hk, k.val, by simp, by simp, fun j hj => ?_⟩
    have := hlt ⟨j, by omega⟩ (by simpa [Fin.lt_def] using hj)
    simpa using this

/-- No key is down (R233). -/
theorem State.firstPressed_eq_none {s : State} :
    s.firstPressed = none ↔ ∀ k : Fin 16, s.key[k] = false := by
  simp [State.firstPressed]

/-- `Press(k)` sets the key `k` and no other; a code that names no key sets none (R256). -/
theorem applyEvent_press (k : Nat) (key : Vector Bool 16) (j : Fin 16) :
    (applyEvent (.press k) key)[j] = (key[j] || decide (j.val = k)) := by
  unfold applyEvent; dsimp only
  split
  · by_cases hj : j.val = k
    · subst hj; simp
    · simp [hj, Ne.symm hj]
  · rename_i h
    have : j.val ≠ k := by rintro rfl; exact h j.isLt
    simp [this]

/-- `Release(k)` clears the key `k` and no other (R256). -/
theorem applyEvent_release (k : Nat) (key : Vector Bool 16) (j : Fin 16) :
    (applyEvent (.release k) key)[j] = (key[j] && !decide (j.val = k)) := by
  unfold applyEvent; dsimp only
  split
  · by_cases hj : j.val = k
    · subst hj; simp
    · simp [hj, Ne.symm hj]
  · rename_i h
    have : j.val ≠ k := by rintro rfl; exact h j.isLt
    simp [this]

theorem State.isPressed_of_lt (s : State) (k : Byte) (h : k.toNat < 16) :
    s.isPressed k = s.key[k.toNat] := by
  rw [State.isPressed, dif_pos h]

theorem State.isPressed_of_ge (s : State) (k : Byte) (h : 16 ≤ k.toNat) : s.isPressed k = false := by
  rw [State.isPressed, dif_neg (Nat.not_lt.2 h)]

end Sys2Proof.Machine
end

