-- ==== Sys2Proof/Laws/DisplayOps.lean ====
section
/-! SUPPORT. What drawing does to each cell and to the collision flag (spec/44_display.md R213, R214): no cell is
touched twice, so a drawn sprite is a cellwise XOR. -/

namespace Sys2Proof.Machine

/-- Toggling changes one cell. -/
theorem cellAt_toggleCell (d : Display) (y y' : Fin 32) (x x' : Fin 64) :
    cellAt (toggleCell d y x) y' x' = if y' = y ∧ x' = x then !cellAt d y x else cellAt d y' x' := by
  unfold cellAt toggleCell
  by_cases hy : y' = y
  · subst hy
    by_cases hx : x' = x
    · subst hx; simp
    · have : x.val ≠ x'.val := fun h => hx (Fin.ext h.symm)
      simp [hx, this]
  · have : y.val ≠ y'.val := fun h => hy (Fin.ext h.symm)
    simp [hy, this]

/-- The clear display has no lit cell (R212). -/
@[simp] theorem cellAt_clear (y : Fin 32) (x : Fin 64) :
    cellAt blankDisplay y x = false := by
  simp [cellAt, blankDisplay]

/-- Displays with the same cells are the same display. -/
theorem display_ext {d e : Display} (h : ∀ y x, cellAt d y x = cellAt e y x) : d = e := by
  ext y hy x hx
  have := h ⟨y, hy⟩ ⟨x, hx⟩
  simpa [cellAt] using this

/-- How far column `x` is to the right of the origin `x0`, wrapping (R213). -/
def colOffset (x0 : Nat) (x : Fin 64) : Nat := (x.val + 64 - x0 % 64) % 64

/-- How far row `y` is below the origin `y0`, wrapping (R213). -/
def rowOffset (y0 : Nat) (y : Fin 32) : Nat := (y.val + 32 - y0 % 32) % 32

theorem eq_wrapCol_iff (x0 col : Nat) (x : Fin 64) (h : col < 64) :
    x = wrapCol (x0 + col) ↔ colOffset x0 x = col := by
  have := x.isLt
  simp only [Fin.ext_iff, wrapCol, colOffset, Config.dispW]
  omega

theorem eq_wrapRow_iff (y0 row : Nat) (y : Fin 32) (h : row < 32) :
    y = wrapRow (y0 + row) ↔ rowOffset y0 y = row := by
  have := y.isLt
  simp only [Fin.ext_iff, wrapRow, rowOffset, Config.dispH]
  omega

/-- One bit drawn: what each cell is afterwards. -/
theorem cellAt_drawBit (y x0 : Nat) (b : Byte) (c : Canvas) (col : Nat) (hc : col < 64) (y' : Fin 32)
    (x' : Fin 64) :
    cellAt (drawBit y x0 b c col).disp y' x' =
      Bool.xor (cellAt c.disp y' x')
        (decide (y' = wrapRow y) && decide (colOffset x0 x' = col) && b.getLsbD (7 - col)) := by
  unfold drawBit
  split
  · simp only [cellAt_toggleCell, ← eq_wrapCol_iff x0 col x' hc]
    by_cases h1 : y' = wrapRow y <;> by_cases h2 : x' = wrapCol (x0 + col) <;> simp_all
  · simp_all

/-- One bit drawn: whether it collides. -/
theorem collision_drawBit (y x0 : Nat) (b : Byte) (c : Canvas) (col : Nat) :
    (drawBit y x0 b c col).collision =
      (c.collision || (b.getLsbD (7 - col) && cellAt c.disp (wrapRow y) (wrapCol (x0 + col)))) := by
  unfold drawBit
  split <;> simp_all

/-- The first `k` columns of a row drawn: what each cell is afterwards. -/
theorem cellAt_drawCols (y x0 : Nat) (b : Byte) (c : Canvas) (k : Nat) (hk : k ≤ 64) (y' : Fin 32)
    (x' : Fin 64) :
    cellAt ((List.range k).foldl (drawBit y x0 b) c).disp y' x' =
      Bool.xor (cellAt c.disp y' x')
        (decide (y' = wrapRow y) && decide (colOffset x0 x' < k) && b.getLsbD (7 - colOffset x0 x')) := by
  induction k with
  | zero => simp
  | succ k ih =>
    rw [List.range_succ, List.foldl_append, List.foldl_cons, List.foldl_nil,
      cellAt_drawBit _ _ _ _ _ (by omega), ih (by omega)]
    rcases Nat.lt_trichotomy (colOffset x0 x') k with h | h | h
    · simp [h, Nat.ne_of_lt h, Nat.lt_succ_of_lt h]
    · simp [h]
    · simp [Nat.not_lt_of_gt h, Nat.ne_of_gt h, show ¬ colOffset x0 x' < k + 1 by omega]

/-- The first `k` columns of a row drawn: whether a lit cell was turned off. -/
theorem collision_drawCols (y x0 : Nat) (b : Byte) (c : Canvas) (k : Nat) (hk : k ≤ 64) :
    ((List.range k).foldl (drawBit y x0 b) c).collision = true ↔
      c.collision = true ∨ ∃ x' : Fin 64, colOffset x0 x' < k ∧ b.getLsbD (7 - colOffset x0 x') = true ∧
        cellAt c.disp (wrapRow y) x' = true := by
  induction k with
  | zero => simp
  | succ k ih =>
    have hoff : colOffset x0 (wrapCol (x0 + k)) = k := (eq_wrapCol_iff x0 k _ (by omega)).1 rfl
    rw [List.range_succ, List.foldl_append, List.foldl_cons, List.foldl_nil, collision_drawBit,
      cellAt_drawCols _ _ _ _ _ (by omega), hoff]
    simp only [Bool.or_eq_true, Bool.and_eq_true, ih (by omega)]
    constructor
    · rintro ((h | ⟨x', h1, h2, h3⟩) | ⟨h1, h2⟩)
      · exact .inl h
      · exact .inr ⟨x', by omega, h2, h3⟩
      · exact .inr ⟨wrapCol (x0 + k), by omega, by rw [hoff]; exact h1, by simpa using h2⟩
    · rintro (h | ⟨x', h1, h2, h3⟩)
      · exact .inl (.inl h)
      · rcases Nat.lt_or_ge (colOffset x0 x') k with h | h
        · exact .inl (.inr ⟨x', h, h2, h3⟩)
        · have hk' : colOffset x0 x' = k := by omega
          have hx : x' = wrapCol (x0 + k) := (eq_wrapCol_iff x0 k x' (by omega)).2 hk'
          exact .inr ⟨by rw [← hk']; exact h2, by rw [← hx]; simpa using h3⟩

/-- Whether the sprite with these row bytes, its origin at row `y0` and column `x0`, has a set bit that lands on
the cell of row `y` and column `x` (R211, R213): rows and columns wrap, and column `col` of a row byte is its
bit `7 - col`. -/
def spriteCovers (x0 y0 : Nat) (bs : List Byte) (y : Fin 32) (x : Fin 64) : Bool :=
  decide (rowOffset y0 y < bs.length) && decide (colOffset x0 x < 8) &&
    (bs.getD (rowOffset y0 y) 0).getLsbD (7 - colOffset x0 x)

theorem spriteCovers_cons (x0 y0 : Nat) (b : Byte) (bs : List Byte) (h : bs.length < 32) (y : Fin 32) (x : Fin 64) :
    spriteCovers x0 y0 (b :: bs) y x =
      ((decide (y = wrapRow y0) && decide (colOffset x0 x < 8) && b.getLsbD (7 - colOffset x0 x)) ||
        spriteCovers x0 (y0 + 1) bs y x) ∧
    (y = wrapRow y0 → spriteCovers x0 (y0 + 1) bs y x = false) := by
  have hy := y.isLt
  have e0 : y = wrapRow y0 ↔ rowOffset y0 y = 0 := eq_wrapRow_iff y0 0 y (by omega)
  have e1 : rowOffset y0 y = if rowOffset y0 y = 0 then 0 else rowOffset (y0 + 1) y + 1 := by
    unfold rowOffset; split <;> omega
  have e2 : rowOffset y0 y = 0 → rowOffset (y0 + 1) y = 31 := by unfold rowOffset; omega
  unfold spriteCovers
  by_cases h0 : rowOffset y0 y = 0
  · have hn : ¬ rowOffset (y0 + 1) y < bs.length := by have := e2 h0; omega
    simp [e0, h0, hn]
  · rw [if_neg h0] at e1
    constructor
    · simp [e0, e1]
    · intro hh; exact absurd (e0.1 hh) h0

/-- A sprite drawn: every cell under a set bit is toggled, every other cell is left alone (R213, R214). -/
theorem cellAt_drawRows (x0 : Nat) (bs : List Byte) (y0 : Nat) (c : Canvas) (h : bs.length ≤ 32) (y : Fin 32)
    (x : Fin 64) :
    cellAt (drawRows x0 y0 bs c).disp y x =
      Bool.xor (cellAt c.disp y x) (spriteCovers x0 y0 bs y x) := by
  induction bs generalizing y0 c with
  | nil => simp [drawRows, spriteCovers]
  | cons b bs ih =>
    simp only [List.length_cons] at h
    obtain ⟨hc, hd⟩ := spriteCovers_cons x0 y0 b bs (by omega) y x
    rw [drawRows, ih _ _ (by omega), drawRow, cellAt_drawCols _ _ _ _ _ (by omega), hc]
    by_cases hy : y = wrapRow y0
    · simp [hd hy]
    · simp [hy]

/-- A sprite drawn: the flag says whether some cell was lit before and lies under a set bit (R213). -/
theorem collision_drawRows (x0 : Nat) (bs : List Byte) (y0 : Nat) (c : Canvas) (h : bs.length ≤ 32) :
    (drawRows x0 y0 bs c).collision = true ↔
      c.collision = true ∨ ∃ (y : Fin 32) (x : Fin 64),
        cellAt c.disp y x = true ∧ spriteCovers x0 y0 bs y x = true := by
  induction bs generalizing y0 c with
  | nil => simp [drawRows, spriteCovers]
  | cons b bs ih =>
    simp only [List.length_cons] at h
    rw [drawRows, ih _ _ (by omega), drawRow, collision_drawCols _ _ _ _ _ (by omega)]
    have key := fun y x => spriteCovers_cons x0 y0 b bs (by omega) y x
    constructor
    · rintro ((hcol | ⟨x', h1, h2, h3⟩) | ⟨y, x, h1, h2⟩)
      · exact .inl hcol
      · refine .inr ⟨wrapRow y0, x', h3, ?_⟩
        rw [(key _ _).1]; simp [h1, h2]
      · refine .inr ⟨y, x, ?_, ?_⟩
        · rw [cellAt_drawCols _ _ _ _ _ (by omega)] at h1
          by_cases hy : y = wrapRow y0
          · rw [(key y x).2 hy] at h2; exact absurd h2 (by simp)
          · simpa [hy] using h1
        · rw [(key y x).1, h2]; simp
    · rintro (hcol | ⟨y, x, h1, h2⟩)
      · exact .inl (.inl hcol)
      · by_cases hy : y = wrapRow y0
        · rw [(key y x).1, (key y x).2 hy] at h2
          simp only [hy, decide_true, Bool.true_and, Bool.or_false, Bool.and_eq_true, decide_eq_true_eq] at h2
          exact .inl (.inr ⟨x, h2.1, h2.2, hy ▸ h1⟩)
        · rw [(key y x).1] at h2
          simp only [hy, decide_false, Bool.false_and, Bool.false_or] at h2
          refine .inr ⟨y, x, ?_, h2⟩
          rw [cellAt_drawCols _ _ _ _ _ (by omega)]
          simpa [hy] using h1

end Sys2Proof.Machine
end

