-- ==== Sys2Proof/Laws/Step.lean ====
section
/-! SUPPORT. What a cycle and a step can do, each said once. -/

namespace Sys2Proof.Machine

/-- Every instruction answers a next state: none faults or refuses in the outcome (R302: a fault is a next state). -/
theorem exec_answers_next (i : Instr) (s : State) : ∃ t, exec i s = .next t := by
  cases i
  case ret => simp only [exec, execRet]; split <;> exact ⟨_, rfl⟩
  case call => simp only [exec, execCall]; split <;> exact ⟨_, rfl⟩
  case ldVxK => simp only [exec, execLdVxK]; split <;> exact ⟨_, rfl⟩
  case drw =>
    simp only [exec, execDrw]
    rcases State.checkRange_cases s _ _ _ with ⟨-, h⟩ | ⟨a, -, h⟩ <;> exact ⟨_, h⟩
  case ldB =>
    simp only [exec, execLdB]
    rcases State.checkRange_cases s _ _ _ with ⟨-, h⟩ | ⟨a, -, h⟩ <;> exact ⟨_, h⟩
  case storeRegs =>
    simp only [exec, execStoreRegs]
    rcases State.checkRange_cases s _ _ _ with ⟨-, h⟩ | ⟨a, -, h⟩ <;> exact ⟨_, h⟩
  case loadRegs =>
    simp only [exec, execLoadRegs]
    rcases State.checkRange_cases s _ _ _ with ⟨-, h⟩ | ⟨a, -, h⟩ <;> exact ⟨_, h⟩
  all_goals exact ⟨_, rfl⟩

/-- A cycle (R129): it faults at fetch, faults at decode, or executes the decoded instruction. -/
theorem instructionCycle_cases {s t : State} (h : instructionCycle s = .next t) :
    (∃ a, rangeFault s.pc.toNat 2 = some a ∧ t = s.raise s.pc (.addressOutOfRange a)) ∨
    (rangeFault s.pc.toNat 2 = none ∧ (∃ e, decodeWord s.fetchWord = .error e) ∧
      t = s.raise s.pc (.illegalOpcode s.fetchWord)) ∨
    (rangeFault s.pc.toNat 2 = none ∧ ∃ i u, decodeWord s.fetchWord = .ok i ∧
      exec i s.advancePc = .next u ∧ t = u.endCycle) := by
  unfold instructionCycle at h
  split at h
  · exact .inl ⟨_, ‹_›, by simpa using h.symm⟩
  · split at h
    · exact .inr (.inl ⟨‹_›, ⟨_, ‹_›⟩, by simpa using h.symm⟩)
    · obtain ⟨u, hu⟩ := exec_answers_next ‹Instr› s.advancePc
      rw [hu] at h
      exact .inr (.inr ⟨‹_›, _, u, ‹_›, hu, by simpa using h.symm⟩)

/-- Every cycle finishes (R131). -/
theorem instructionCycle_answers_next (s : State) : ∃ t, instructionCycle s = .next t := by
  unfold instructionCycle
  split
  · exact ⟨_, rfl⟩
  · split
    · exact ⟨_, rfl⟩
    · obtain ⟨u, hu⟩ := exec_answers_next ‹Instr› s.advancePc
      rw [hu]
      exact ⟨_, rfl⟩

/-- The cycle of a decoded instruction (R122 to R126). -/
theorem instructionCycle_of_decode {s t : State} {i : Instr} (hp : s.pc.toNat + 2 ≤ Config.memSize)
    (hd : decodeWord s.fetchWord = .ok i) (he : exec i s.advancePc = .next t) :
    instructionCycle s = .next t.endCycle := by
  rw [instructionCycle, rangeFault_eq_none.2 (.inr hp)]
  simp [hd, he]

/-- The state after a due cycle (R257). -/
def State.afterDue (u : State) : State :=
  { u with lastInstructionTick := u.lastInstructionTick + u.cfg.instrInterval, phase := .cycles }

theorem State.dueCycle_eq_next {s t : State} :
    s.dueCycle = .next t ↔ ∃ u, instructionCycle s = .next u ∧ t = u.afterDue := by
  unfold State.dueCycle
  cases h : instructionCycle s with
  | next u => simp [State.afterDue, eq_comm]
  | fault f => simp
  | refused r => simp

/-- The start of the loop is `startLoop`. -/
theorem loopStart_iff {s s₀ : State} :
    LoopStart s s₀ ↔ s.run = .running ∧ s.phase = .boot ∧ s.loaded = true ∧ s₀ = s.startLoop := by
  have : s.startLoop = { s with
      now := max s.now (s.clockFeed.headD s.now), clockFeed := s.clockFeed.tail
      lastInstructionTick := max s.now (s.clockFeed.headD s.now)
      lastRenderTick := max s.now (s.clockFeed.headD s.now)
      lastTimerTick := max s.now (s.clockFeed.headD s.now), phase := .ticks } := by
    unfold State.startLoop State.readClock
    split <;> simp [*]
  rw [LoopStart, this]
  exact and_congr_right fun _ => and_congr_right fun _ => and_congr_right fun _ => exists_eq_left

/-- An iteration starts in a running state. -/
theorem IterationStart.running {s s₀ : State} (h : IterationStart s s₀) : s.run = .running :=
  h.elim And.left fun h => h.1.1

/-- The state that step 1 of an iteration sees has everything but the clock, the accumulators and the loop's place from
the state before the step, and its reading is not an earlier one (R14). -/
theorem IterationStart.eq {s s₀ : State} (h : IterationStart s s₀) : ∃ n cf a b c p, s.now ≤ n ∧
    s₀ = { s with
      now := n, clockFeed := cf, lastInstructionTick := a, lastRenderTick := b, lastTimerTick := c, phase := p } := by
  rcases h with ⟨-, -, -, t, ht, rfl⟩ | ⟨-, rfl⟩
  · exact ⟨t, _, _, _, _, _, ht ▸ Nat.le_max_left _ _, rfl⟩
  · exact ⟨_, _, _, _, _, _, le_rfl, rfl⟩

/-- A move of the host or the clock changes the feed, its closure and the readings to come, and nothing else (R267, R14). -/
theorem HostMove.eq {s t : State} (h : HostMove s t) :
    ∃ q c cf, t = { s with inq := q, inqClosed := c, clockFeed := cf } := by
  cases h with
  | press k => unfold State.hostPress; split <;> exact ⟨_, _, _, rfl⟩
  | release k => unfold State.hostRelease; split <;> exact ⟨_, _, _, rfl⟩
  | close => exact ⟨_, _, _, rfl⟩
  | clock t => exact ⟨_, _, _, rfl⟩

/-- What one step can do (R13, R253). -/
inductive StepCase (s t : State) : Prop where
  /-- a due cycle of the current iteration -/
  | cycle (u : State) : s.phase = .cycles → s.instrDue = true → instructionCycle s = .next u →
      t = u.afterDue → StepCase s t
  /-- a frame-ready signal -/
  | frame : s.phase = .cycles → s.instrDue = false → s.frameDue = true → t = s.signalFrame → StepCase s t
  /-- a timer tick -/
  | tick : s.phase = .cycles ∧ s.instrDue = false ∧ s.frameDue = false ∨ s.phase = .ticks →
      s.timerDue = true → t = s.dueTick → StepCase s t
  /-- a new iteration delivers an event -/
  | deliver (s₀ : State) (e : InputEvent) (rest : List InputEvent) : IterationStart s s₀ → s₀.inq = e :: rest →
      t = ({ s₀ with key := applyEvent e s₀.key, inq := rest } : State).readNow → StepCase s t
  /-- a new iteration finds the feed empty and closed -/
  | stop (s₀ : State) : IterationStart s s₀ → s₀.inq = [] → s₀.inqClosed = true →
      t = { s₀ with run := .stopped } → StepCase s t
  /-- a new iteration with no event runs its first due cycle -/
  | start (s₀ u : State) : IterationStart s s₀ → s₀.inq = [] → s₀.inqClosed = false →
      s₀.readNow.instrDue = true → instructionCycle s₀.readNow = .next u → t = u.afterDue → StepCase s t
  /-- a new iteration with no event and no due cycle has only read the clock -/
  | idle (s₀ : State) : IterationStart s s₀ → s₀.inq = [] → s₀.inqClosed = false →
      s₀.readNow.instrDue = false → t = s₀.readNow → StepCase s t

theorem State.startIteration_cases {s s₀ t : State} (hs : IterationStart s s₀)
    (h : s₀.startIteration = .next t) : StepCase s t := by
  unfold State.startIteration at h
  split at h
  · exact .deliver s₀ _ _ hs ‹_› (by simpa using h.symm)
  · split at h
    · exact .stop s₀ hs ‹_› ‹_› (by simpa using h.symm)
    · split at h
      · obtain ⟨u, hu, ht⟩ := State.dueCycle_eq_next.1 h
        exact .start s₀ u hs ‹_› (by simpa using ‹¬ s₀.inqClosed = true›) ‹_› hu ht
      · exact .idle s₀ hs ‹_› (by simpa using ‹¬ s₀.inqClosed = true›)
          (by simpa using ‹¬ s₀.readNow.instrDue = true›) (by simpa using h.symm)

/-- A step happens only in a running state, and does one of the things of `StepCase` (R42, R253). -/
theorem step_cases {s t : State} (h : step s = .next t) : s.run = .running ∧ StepCase s t := by
  unfold step schedulerStep at h
  split at h
  · simp at h
  · simp at h
  · refine ⟨‹_›, ?_⟩
    split at h
    · unfold State.bootPhase at h
      split at h
      · exact State.startIteration_cases (.inl (loopStart_iff.2 ⟨‹_›, ‹_›, ‹_›, rfl⟩)) h
      · simp at h
    · unfold State.cyclesPhase at h
      split at h
      · obtain ⟨u, hu, ht⟩ := State.dueCycle_eq_next.1 h
        exact .cycle u ‹_› ‹_› hu ht
      · have hd : s.instrDue = false := by simpa using ‹¬ s.instrDue = true›
        split at h
        · exact .frame ‹_› hd ‹_› (by simpa using h.symm)
        · have hf : s.frameDue = false := by simpa using ‹¬ s.frameDue = true›
          unfold State.ticksPhase at h
          split at h
          · exact .tick (.inl ⟨‹_›, hd, hf⟩) ‹_› (by simpa using h.symm)
          · exact State.startIteration_cases
              (.inr ⟨⟨‹_›, by simpa using ‹¬ s.timerDue = true›, .inr ⟨‹_›, hd, hf⟩⟩, rfl⟩) h
    · unfold State.ticksPhase at h
      split at h
      · exact .tick (.inr ‹_›) ‹_› (by simpa using h.symm)
      · exact State.startIteration_cases
          (.inr ⟨⟨‹_›, by simpa using ‹¬ s.timerDue = true›, .inl ‹_›⟩, rfl⟩) h

/-- A step that starts an iteration does what the iteration does. -/
theorem step_of_iterationStart {s s₀ : State} (h : IterationStart s s₀) : step s = s₀.startIteration := by
  rcases h with h | ⟨⟨hr, ht, hp⟩, rfl⟩
  · obtain ⟨hr, hp, hl, rfl⟩ := loopStart_iff.1 h
    simp [step, schedulerStep, hr, hp, State.bootPhase, hl]
  · rcases hp with hp | ⟨hp, hd, hf⟩ <;>
      simp [step, schedulerStep, State.cyclesPhase, State.ticksPhase, *]

/-- Before a successful load the loop does not start (R332). -/
theorem step_of_not_loaded {s : State} (hr : s.run = .running) (hp : s.phase = .boot) (hl : s.loaded = false) :
    step s = .fault .notLoaded := by
  simp [step, schedulerStep, hr, hp, State.bootPhase, hl]

/-- A running state with a cycle due runs it (R257). -/
theorem step_of_due {s : State} (hr : s.run = .running) (hp : s.phase = .cycles) (hd : s.instrDue = true) :
    step s = s.dueCycle := by
  simp [step, schedulerStep, hr, hp, State.cyclesPhase, hd]

end Sys2Proof.Machine
end

