-- ==== Sys2Proof/Laws/Exec.lean ====
section
/-! SUPPORT. What each instruction with more than one outcome can do, said once, and what no instruction touches. -/

namespace Sys2Proof.Machine

/-- `00EE` (R141): it reports on an empty stack, or pops slot `j`. -/
theorem execRet_cases {s t : State} (h : exec .ret s = .next t) :
    (s.sp.val = 0 ∧ t = s.report .stackUnderflow) ∨
    ∃ (j : Fin 16) (p : Fin 17), s.sp.val = j.val + 1 ∧ p.val = j.val ∧
      t = ({ s with sp := p } : State).setPc s.stack[j] := by
  have := s.sp_le
  simp only [exec, execRet, State.pop] at h
  split at h <;> cases h <;> rename_i hh <;> (split at hh <;> cases hh)
  · exact .inr ⟨⟨s.sp.val - 1, by omega⟩, ⟨s.sp.val - 1, by omega⟩, by simp; omega, rfl, rfl⟩
  · exact .inl ⟨by omega, rfl⟩

/-- `2NNN` (R143): it reports on a full stack, or pushes into slot `j`; it jumps both ways. -/
theorem execCall_cases {nnn : BitVec 12} {s t : State} (h : exec (.call nnn) s = .next t) :
    (s.sp.val = 16 ∧ t = (s.report .stackOverflow).setPc (zextAddr nnn)) ∨
    ∃ (j : Fin 16) (p : Fin 17), s.sp.val = j.val ∧ p.val = j.val + 1 ∧
      t = ({ s with sp := p, stack := s.stack.set j.val s.pc } : State).setPc (zextAddr nnn) := by
  have := s.sp_le
  simp only [exec, execCall, State.push, Config.stackDepth] at h
  split at h <;> cases h <;> rename_i hh <;> (split at hh <;> cases hh)
  · exact .inr ⟨⟨s.sp.val, by omega⟩, ⟨s.sp.val + 1, by omega⟩, rfl, rfl, rfl⟩
  · exact .inl ⟨by omega, rfl⟩

/-- `FX0A` (R234): it takes the lowest pressed key, or rolls `pc` back. -/
theorem execLdVxK_cases {x : Reg} {s t : State} (h : exec (.ldVxK x) s = .next t) :
    (∃ k, s.firstPressed = some k ∧ t = s.setReg x (BitVec.ofNat 8 k.val)) ∨
    (s.firstPressed = none ∧ t = s.setPc (s.pc - 2)) := by
  simp only [exec, execLdVxK] at h
  split at h <;> cases h
  · exact .inl ⟨_, by assumption, rfl⟩
  · exact .inr ⟨by assumption, rfl⟩

/-- A range-checked instruction: its effect, or the fault of R298. -/
theorem State.checkRange_eq_next {s t k : State} {base len : Nat} (h : s.checkRange base len k = .next t) :
    (rangeFault base len = none ∧ t = k) ∨
    ∃ a, rangeFault base len = some a ∧ t = s.raiseInInstr (.addressOutOfRange a) := by
  rcases State.checkRange_cases s base len k with ⟨hr, h'⟩ | ⟨a, hr, h'⟩ <;> rw [h'] at h <;> cases h
  · exact .inl ⟨hr, rfl⟩
  · exact .inr ⟨a, hr, rfl⟩

/-- `DXYN` (R213): some display and some flag, or the fault. -/
theorem execDrw_cases {x y : Reg} {n : Nat} {s t : State} (h : exec (.drw x y n) s = .next t) :
    (rangeFault s.base n = none ∧ ∃ d f, t = (s.showDisplay d).setFlag f) ∨
    ∃ a, rangeFault s.base n = some a ∧ t = s.raiseInInstr (.addressOutOfRange a) :=
  (State.checkRange_eq_next h).imp (fun h => ⟨h.1, _, _, h.2⟩) id

/-- `FX33` (R194): the digits stored, or the fault. -/
theorem execLdB_cases {x : Reg} {s t : State} (h : exec (.ldB x) s = .next t) :
    (rangeFault s.base 3 = none ∧ t = s.storeBytes s.base (decimalDigits (s.reg x))) ∨
    ∃ a, rangeFault s.base 3 = some a ∧ t = s.raiseInInstr (.addressOutOfRange a) :=
  State.checkRange_eq_next h

/-- `FX55` (R195): the registers stored and `I` advanced, or the fault. -/
theorem execStoreRegs_cases {x : Reg} {s t : State} (h : exec (.storeRegs x) s = .next t) :
    (rangeFault s.base (x.val + 1) = none ∧ t = (s.storeBytes s.base (s.regsUpTo x)).setI (s.advanceI x)) ∨
    ∃ a, rangeFault s.base (x.val + 1) = some a ∧ t = s.raiseInInstr (.addressOutOfRange a) :=
  State.checkRange_eq_next h

/-- `FX65` (R196): the registers loaded and `I` advanced, or the fault. -/
theorem execLoadRegs_cases {x : Reg} {s t : State} (h : exec (.loadRegs x) s = .next t) :
    (rangeFault s.base (x.val + 1) = none ∧
      t = (s.setRegsFrom (s.readBytes s.base (x.val + 1))).setI (s.advanceI x)) ∨
    ∃ a, rangeFault s.base (x.val + 1) = some a ∧ t = s.raiseInInstr (.addressOutOfRange a) :=
  State.checkRange_eq_next h

/-- What no instruction touches (R120): everything of the scheduler and the host, the keys and the settings; `REPORTS`
only grows, and `run` changes to a fault only. -/
structure Untouched (s t : State) : Prop where
  cfg : t.cfg = s.cfg
  lastInstructionTick : t.lastInstructionTick = s.lastInstructionTick
  lastRenderTick : t.lastRenderTick = s.lastRenderTick
  lastTimerTick : t.lastTimerTick = s.lastTimerTick
  now : t.now = s.now
  clockFeed : t.clockFeed = s.clockFeed
  inq : t.inq = s.inq
  inqClosed : t.inqClosed = s.inqClosed
  frames : t.frames = s.frames
  phase : t.phase = s.phase
  loaded : t.loaded = s.loaded
  key : t.key = s.key
  reports : s.reports <+: t.reports
  run : t.run = s.run ∨ ∃ c, t.run = .faulted c

theorem exec_untouched {i : Instr} {s t : State} (h : exec i s = .next t) : Untouched s t := by
  cases i
  case ret => rcases execRet_cases h with ⟨-, rfl⟩ | ⟨j, p, -, -, rfl⟩ <;> constructor <;> simp
  case call => rcases execCall_cases h with ⟨-, rfl⟩ | ⟨j, p, -, -, rfl⟩ <;> constructor <;> simp
  case ldVxK => rcases execLdVxK_cases h with ⟨k, -, rfl⟩ | ⟨-, rfl⟩ <;> constructor <;> simp
  case drw => rcases execDrw_cases h with ⟨-, d, f, rfl⟩ | ⟨a, -, rfl⟩ <;> constructor <;> simp
  case ldB => rcases execLdB_cases h with ⟨-, rfl⟩ | ⟨a, -, rfl⟩ <;> constructor <;> simp
  case storeRegs => rcases execStoreRegs_cases h with ⟨-, rfl⟩ | ⟨a, -, rfl⟩ <;> constructor <;> simp
  case loadRegs => rcases execLoadRegs_cases h with ⟨-, rfl⟩ | ⟨a, -, rfl⟩ <;> constructor <;> simp
  all_goals (cases h; constructor <;> simp)

theorem instructionCycle_untouched {s t : State} (h : instructionCycle s = .next t) : Untouched s t := by
  rcases instructionCycle_cases h with ⟨a, -, rfl⟩ | ⟨-, -, rfl⟩ | ⟨-, i, u, -, hx, rfl⟩
  · constructor <;> simp
  · constructor <;> simp
  · obtain ⟨h1, h2, h3, h4, h5, h6, h7, h8, h9, h10, h11, h12, h13, h14⟩ := exec_untouched hx
    constructor <;> simp_all

/-! ### The clock -/

/-- The clock reading of a new iteration changes the reading, the feed and the phase only (R254). -/
theorem State.readNow_eq (s : State) :
    s.readNow = { s with now := s.iterationReading, clockFeed := s.clockFeed.tail, phase := .cycles } := by
  unfold State.readNow State.readClock State.iterationReading; split <;> simp [*]

/-- A reading is not less than the one before it (R14). -/
theorem State.le_readClock (s : State) (d : Nat) : s.now ≤ (s.readClock d).now := by
  unfold State.readClock; split <;> simp

theorem State.le_readNow (s : State) : s.now ≤ s.readNow.now := State.le_readClock s _

end Sys2Proof.Machine
end

