-- ==== Sys2Proof/Laws/PerInstr.lean ====
section
/-! SUPPORT. Statements made per instruction: the family `RowMatch`, that the word of an instruction has the fixed bits of
its row (spec/30_encoding.md R95, R96). -/

namespace Sys2Proof.Laws

/-- The word of a well-formed `i` matches the row of R95 that `i` belongs to: its bits under the row's mask are the
row's (R95, R96). -/
def RowMatch.Statement (i : Instr) : Prop :=
  i.wellFormed = true → ∀ r ∈ opcodeRows, r.number = i.rowNumber → encode i &&& r.mask = r.fixed

/-! ### What the masks of R92 leave of a word -/

theorem encNNN_and_op (op : BitVec 4) (nnn : BitVec 12) :
    encNNN op nnn &&& 0xF000 = encNNN op 0 := by
  apply BitVec.eq_of_getLsbD_eq; intro k hk
  simp only [encNNN, BitVec.getLsbD_and, BitVec.getLsbD_append]
  interval_cases k <;> simp

theorem encXKK_and_op (op : BitVec 4) (x : Reg) (kk : Byte) :
    encXKK op x kk &&& 0xF000 = encXKK op 0 0 := by
  apply BitVec.eq_of_getLsbD_eq; intro k hk
  simp only [encXKK, BitVec.getLsbD_and, BitVec.getLsbD_append]
  interval_cases k <;> simp

theorem encXKK_and_sub (op : BitVec 4) (x : Reg) (kk : Byte) :
    encXKK op x kk &&& 0xF0FF = encXKK op 0 kk := by
  apply BitVec.eq_of_getLsbD_eq; intro k hk
  simp only [encXKK, BitVec.getLsbD_and, BitVec.getLsbD_append]
  interval_cases k <;> simp

theorem encXYN_and_sub (op : BitVec 4) (x y : Reg) (n : BitVec 4) :
    encXYN op x y n &&& 0xF00F = encXYN op 0 0 n := by
  apply BitVec.eq_of_getLsbD_eq; intro k hk
  simp only [encXYN, BitVec.getLsbD_and, BitVec.getLsbD_append]
  interval_cases k <;> simp

theorem encXYN_and_op (op : BitVec 4) (x y : Reg) (n : BitVec 4) :
    encXYN op x y n &&& 0xF000 = encXYN op 0 0 0 := by
  apply BitVec.eq_of_getLsbD_eq; intro k hk
  simp only [encXYN, BitVec.getLsbD_and, BitVec.getLsbD_append]
  interval_cases k <;> simp

/-- It is enough to look at the one row with the instruction's number. -/
theorem rowMatch_of_row {i : Instr} (n : Nat) (m f : Word)
    (hn : opcodeRows.filter (fun r => r.number = i.rowNumber) = [⟨n, f, m⟩]) (h : encode i &&& m = f) :
    RowMatch.Statement i := by
  intro _ r hr e
  have hm : r ∈ opcodeRows.filter (fun r => r.number = i.rowNumber) := by simp [hr, e]
  rw [hn, List.mem_singleton] at hm
  subst hm
  exact h

/-! ### One lemma per constructor -/

theorem RowMatch.cls : RowMatch.Statement .cls :=
  rowMatch_of_row 1 0xFFFF 0x00E0 rfl (rfl)

theorem RowMatch.ret : RowMatch.Statement .ret :=
  rowMatch_of_row 2 0xFFFF 0x00EE rfl (rfl)

theorem RowMatch.jp (nnn : BitVec 12) : RowMatch.Statement (.jp nnn) :=
  rowMatch_of_row 3 0xF000 0x1000 rfl ((encNNN_and_op _ _).trans rfl)

theorem RowMatch.call (nnn : BitVec 12) : RowMatch.Statement (.call nnn) :=
  rowMatch_of_row 4 0xF000 0x2000 rfl ((encNNN_and_op _ _).trans rfl)

theorem RowMatch.seImm (x : Reg) (kk : Byte) : RowMatch.Statement (.seImm x kk) :=
  rowMatch_of_row 5 0xF000 0x3000 rfl ((encXKK_and_op _ _ _).trans rfl)

theorem RowMatch.sneImm (x : Reg) (kk : Byte) : RowMatch.Statement (.sneImm x kk) :=
  rowMatch_of_row 6 0xF000 0x4000 rfl ((encXKK_and_op _ _ _).trans rfl)

theorem RowMatch.seReg (x : Reg) (y : Reg) : RowMatch.Statement (.seReg x y) :=
  rowMatch_of_row 7 0xF00F 0x5000 rfl ((encXYN_and_sub _ _ _ _).trans rfl)

theorem RowMatch.ldImm (x : Reg) (kk : Byte) : RowMatch.Statement (.ldImm x kk) :=
  rowMatch_of_row 8 0xF000 0x6000 rfl ((encXKK_and_op _ _ _).trans rfl)

theorem RowMatch.addImm (x : Reg) (kk : Byte) : RowMatch.Statement (.addImm x kk) :=
  rowMatch_of_row 9 0xF000 0x7000 rfl ((encXKK_and_op _ _ _).trans rfl)

theorem RowMatch.ldReg (x : Reg) (y : Reg) : RowMatch.Statement (.ldReg x y) :=
  rowMatch_of_row 10 0xF00F 0x8000 rfl ((encXYN_and_sub _ _ _ _).trans rfl)

theorem RowMatch.orReg (x : Reg) (y : Reg) : RowMatch.Statement (.orReg x y) :=
  rowMatch_of_row 11 0xF00F 0x8001 rfl ((encXYN_and_sub _ _ _ _).trans rfl)

theorem RowMatch.andReg (x : Reg) (y : Reg) : RowMatch.Statement (.andReg x y) :=
  rowMatch_of_row 12 0xF00F 0x8002 rfl ((encXYN_and_sub _ _ _ _).trans rfl)

theorem RowMatch.xorReg (x : Reg) (y : Reg) : RowMatch.Statement (.xorReg x y) :=
  rowMatch_of_row 13 0xF00F 0x8003 rfl ((encXYN_and_sub _ _ _ _).trans rfl)

theorem RowMatch.addReg (x : Reg) (y : Reg) : RowMatch.Statement (.addReg x y) :=
  rowMatch_of_row 14 0xF00F 0x8004 rfl ((encXYN_and_sub _ _ _ _).trans rfl)

theorem RowMatch.subReg (x : Reg) (y : Reg) : RowMatch.Statement (.subReg x y) :=
  rowMatch_of_row 15 0xF00F 0x8005 rfl ((encXYN_and_sub _ _ _ _).trans rfl)

theorem RowMatch.shr (x : Reg) (y : Reg) : RowMatch.Statement (.shr x y) :=
  rowMatch_of_row 16 0xF00F 0x8006 rfl ((encXYN_and_sub _ _ _ _).trans rfl)

theorem RowMatch.subnReg (x : Reg) (y : Reg) : RowMatch.Statement (.subnReg x y) :=
  rowMatch_of_row 17 0xF00F 0x8007 rfl ((encXYN_and_sub _ _ _ _).trans rfl)

theorem RowMatch.shl (x : Reg) (y : Reg) : RowMatch.Statement (.shl x y) :=
  rowMatch_of_row 18 0xF00F 0x800E rfl ((encXYN_and_sub _ _ _ _).trans rfl)

theorem RowMatch.sneReg (x : Reg) (y : Reg) : RowMatch.Statement (.sneReg x y) :=
  rowMatch_of_row 19 0xF00F 0x9000 rfl ((encXYN_and_sub _ _ _ _).trans rfl)

theorem RowMatch.ldI (nnn : BitVec 12) : RowMatch.Statement (.ldI nnn) :=
  rowMatch_of_row 20 0xF000 0xA000 rfl ((encNNN_and_op _ _).trans rfl)

theorem RowMatch.jpV0 (nnn : BitVec 12) : RowMatch.Statement (.jpV0 nnn) :=
  rowMatch_of_row 21 0xF000 0xB000 rfl ((encNNN_and_op _ _).trans rfl)

theorem RowMatch.rnd (x : Reg) (kk : Byte) : RowMatch.Statement (.rnd x kk) :=
  rowMatch_of_row 22 0xF000 0xC000 rfl ((encXKK_and_op _ _ _).trans rfl)

theorem RowMatch.drw (x : Reg) (y : Reg) (n : Nat) : RowMatch.Statement (.drw x y n) :=
  rowMatch_of_row 23 0xF000 0xD000 rfl ((encXYN_and_op _ _ _ _).trans rfl)

theorem RowMatch.skp (x : Reg) : RowMatch.Statement (.skp x) :=
  rowMatch_of_row 24 0xF0FF 0xE09E rfl ((encXKK_and_sub _ _ _).trans rfl)

theorem RowMatch.sknp (x : Reg) : RowMatch.Statement (.sknp x) :=
  rowMatch_of_row 25 0xF0FF 0xE0A1 rfl ((encXKK_and_sub _ _ _).trans rfl)

theorem RowMatch.ldVxDt (x : Reg) : RowMatch.Statement (.ldVxDt x) :=
  rowMatch_of_row 26 0xF0FF 0xF007 rfl ((encXKK_and_sub _ _ _).trans rfl)

theorem RowMatch.ldVxK (x : Reg) : RowMatch.Statement (.ldVxK x) :=
  rowMatch_of_row 27 0xF0FF 0xF00A rfl ((encXKK_and_sub _ _ _).trans rfl)

theorem RowMatch.ldDtVx (x : Reg) : RowMatch.Statement (.ldDtVx x) :=
  rowMatch_of_row 28 0xF0FF 0xF015 rfl ((encXKK_and_sub _ _ _).trans rfl)

theorem RowMatch.ldStVx (x : Reg) : RowMatch.Statement (.ldStVx x) :=
  rowMatch_of_row 29 0xF0FF 0xF018 rfl ((encXKK_and_sub _ _ _).trans rfl)

theorem RowMatch.addI (x : Reg) : RowMatch.Statement (.addI x) :=
  rowMatch_of_row 30 0xF0FF 0xF01E rfl ((encXKK_and_sub _ _ _).trans rfl)

theorem RowMatch.ldF (x : Reg) : RowMatch.Statement (.ldF x) :=
  rowMatch_of_row 31 0xF0FF 0xF029 rfl ((encXKK_and_sub _ _ _).trans rfl)

theorem RowMatch.ldB (x : Reg) : RowMatch.Statement (.ldB x) :=
  rowMatch_of_row 32 0xF0FF 0xF033 rfl ((encXKK_and_sub _ _ _).trans rfl)

theorem RowMatch.storeRegs (x : Reg) : RowMatch.Statement (.storeRegs x) :=
  rowMatch_of_row 33 0xF0FF 0xF055 rfl ((encXKK_and_sub _ _ _).trans rfl)

theorem RowMatch.loadRegs (x : Reg) : RowMatch.Statement (.loadRegs x) :=
  rowMatch_of_row 34 0xF0FF 0xF065 rfl ((encXKK_and_sub _ _ _).trans rfl)

end Sys2Proof.Laws
end

