-- ==== Sys2Proof/Tests/Slice0.lean ====
section
/-! SUPPORT. Tests. Expected results come from spec/95_test_vectors.md (the vector is named in each comment) or
from the encoding tables of spec/30_encoding.md. -/

namespace Sys2Proof.Tests

open Sys2Proof.Machine

/-! ### Well-formedness: the one check, and an ill-formed term it refuses -/

theorem test_wellFormed_refuses_sixteen_rows : Instr.wellFormed (.drw 0 1 16) = false := by decide
theorem test_wellFormed_takes_fifteen_rows : Instr.wellFormed (.drw 0 1 15) = true := by decide

/-! ### Decoding: for every constructor a word written out from its row of R95 -/

theorem test_decode_cls : decodeWord 0x00E0 = .ok .cls := by decide
theorem test_decode_ret : decodeWord 0x00EE = .ok .ret := by decide
theorem test_decode_jp : decodeWord 0x1204 = .ok (.jp 0x204) := by decide
theorem test_decode_call : decodeWord 0x220A = .ok (.call 0x20A) := by decide
theorem test_decode_seImm : decodeWord 0x3100 = .ok (.seImm 1 0x00) := by decide
theorem test_decode_sneImm : decodeWord 0x4211 = .ok (.sneImm 2 0x11) := by decide
theorem test_decode_seReg : decodeWord 0x5340 = .ok (.seReg 3 4) := by decide
theorem test_decode_ldImm : decodeWord 0x6A05 = .ok (.ldImm 10 0x05) := by decide
theorem test_decode_addImm : decodeWord 0x73FF = .ok (.addImm 3 0xFF) := by decide
theorem test_decode_ldReg : decodeWord 0x8010 = .ok (.ldReg 0 1) := by decide
theorem test_decode_orReg : decodeWord 0x8AB1 = .ok (.orReg 10 11) := by decide
theorem test_decode_andReg : decodeWord 0x8AB2 = .ok (.andReg 10 11) := by decide
theorem test_decode_xorReg : decodeWord 0x8AB3 = .ok (.xorReg 10 11) := by decide
theorem test_decode_addReg : decodeWord 0x8F14 = .ok (.addReg 15 1) := by decide
theorem test_decode_subReg : decodeWord 0x80F5 = .ok (.subReg 0 15) := by decide
theorem test_decode_shr : decodeWord 0x8216 = .ok (.shr 2 1) := by decide
theorem test_decode_subnReg : decodeWord 0x8017 = .ok (.subnReg 0 1) := by decide
theorem test_decode_shl : decodeWord 0x82CE = .ok (.shl 2 12) := by decide
theorem test_decode_sneReg : decodeWord 0x9340 = .ok (.sneReg 3 4) := by decide
theorem test_decode_ldI : decodeWord 0xA20C = .ok (.ldI 0x20C) := by decide
theorem test_decode_jpV0 : decodeWord 0xB345 = .ok (.jpV0 0x345) := by decide
theorem test_decode_rnd : decodeWord 0xC30F = .ok (.rnd 3 0x0F) := by decide
theorem test_decode_drw : decodeWord 0xD125 = .ok (.drw 1 2 5) := by decide
theorem test_decode_skp : decodeWord 0xE59E = .ok (.skp 5) := by decide
theorem test_decode_sknp : decodeWord 0xE5A1 = .ok (.sknp 5) := by decide
theorem test_decode_ldVxDt : decodeWord 0xF307 = .ok (.ldVxDt 3) := by decide
theorem test_decode_ldVxK : decodeWord 0xF10A = .ok (.ldVxK 1) := by decide
theorem test_decode_ldDtVx : decodeWord 0xF115 = .ok (.ldDtVx 1) := by decide
theorem test_decode_ldStVx : decodeWord 0xF118 = .ok (.ldStVx 1) := by decide
theorem test_decode_addI : decodeWord 0xF11E = .ok (.addI 1) := by decide
theorem test_decode_ldF : decodeWord 0xFE29 = .ok (.ldF 14) := by decide
theorem test_decode_ldB : decodeWord 0xF733 = .ok (.ldB 7) := by decide
theorem test_decode_storeRegs : decodeWord 0xF255 = .ok (.storeRegs 2) := by decide
theorem test_decode_loadRegs : decodeWord 0xFF65 = .ok (.loadRegs 15) := by decide

/-- FD7: words that match no row, each rejected by name. -/
theorem test_decode_illegal :
    ([0x0000, 0x00E1, 0x00FE, 0x0123, 0x5121, 0x8128, 0x812F, 0x9121, 0xE19F, 0xE000, 0xF1FF, 0xF100, 0xF075,
      0xF085, 0xF030].all fun w => decide (decodeWord w = .error (.illegalOpcode w))) = true := by decide

theorem test_decode_bytes_big_endian : decode [0x6A, 0x05, 0x00] = .ok (.ldImm 10 0x05, [0x00]) := by decide
theorem test_decode_truncated : decode [0x6A] = .error .truncated := by decide
theorem test_decodeTableWord : decodeTableWord 16 0xD012 = some (.drw 0 1 2) := by decide

/-! ### One step on a small state -/

/-- The reset state with some registers set. -/
def regs (l : List (Reg × Byte)) : State := l.foldl (fun s p => s.setReg p.1 p.2) State.reset

/-- The reset state with some bytes of memory set. -/
def bytesAt (a : Nat) (bs : List Byte) (s : State) : State := s.storeBytes a bs

/-- The state one step leads to. -/
def stepped (s : State) : State :=
  match step s with
  | .next t => t
  | .fault _ => s
  | .refused _ => s

/-- One step that runs the word `w` placed at the program counter. -/
def after (w : Nat) (s : State) : State := stepped (s.withFetchWord 16 w)

/-- CT3 -/
theorem test_ret_pops_slot_15 :
    let t := after 0x00EE { State.reset with sp := 16, stack := State.reset.stack.set 15 0x345 }
    t.sp = 15 ∧ t.pc = 0x345 := by decide
/-- S7, CT2 -/
theorem test_ret_empty_reports :
    let t := after 0x00EE State.reset
    t.sp = 0 ∧ t.pc = 0x202 ∧ t.reports = [.stackUnderflow] ∧ t.run = .running := by decide
/-- CT4 -/
theorem test_jp : (after 0x1204 { State.reset with pc := 0x20A }).pc = 0x204 := by decide
/-- CT8 -/
theorem test_call_sixteenth :
    let t := after 0x2300 { State.reset with sp := 15, pc := 0x250 }
    t.stack[15] = 0x252 ∧ t.sp = 16 ∧ t.pc = 0x300 ∧ t.reports = [] := by decide
/-- CT9 -/
theorem test_call_overflow :
    let t := after 0x2300 { State.reset with sp := 16, pc := 0x250 }
    t.stack = State.reset.stack ∧ t.sp = 16 ∧ t.pc = 0x300 ∧ t.reports = [.stackOverflow] := by decide
/-- CT11 -/
theorem test_jpV0_no_mask : (after 0xBFFF (regs [(0, 0xFF)])).pc = 0x10FE := by decide
/-- CT13 -/
theorem test_seImm_skips : (after 0x3100 { State.reset with pc := 0x208 }).pc = 0x20C := by decide
/-- CT16 -/
theorem test_sneImm_falls : (after 0x4211 { regs [(2, 0x11)] with pc := 0x300 }).pc = 0x302 := by decide
/-- CT17 -/
theorem test_seReg_skips : (after 0x5340 { regs [(3, 7), (4, 7)] with pc := 0x210 }).pc = 0x214 := by decide
/-- CT20 -/
theorem test_sneReg_skips : (after 0x9340 { regs [(3, 7), (4, 8)] with pc := 0x210 }).pc = 0x214 := by decide
/-- S11 -/
theorem test_ldImm : let t := after 0x6A05 State.reset; t.reg 10 = 5 ∧ t.pc = 0x202 := by decide
/-- S2, AL3 -/
theorem test_addImm_wraps :
    let t := after 0x7301 (regs [(3, 0xFF), (15, 5)]); t.reg 3 = 0 ∧ t.reg 15 = 5 := by decide
/-- AL6 -/
theorem test_ldReg : (after 0x8010 (regs [(1, 0x3C)])).reg 0 = 0x3C := by decide
/-- AL7 -/
theorem test_orReg_keeps_flag :
    let t := after 0x8011 (regs [(0, 0xF0), (1, 0x0F), (15, 1)]); t.reg 0 = 0xFF ∧ t.reg 15 = 1 := by decide
/-- AL8 -/
theorem test_andReg : (after 0x8012 (regs [(0, 0xF0), (1, 0x3C)])).reg 0 = 0x30 := by decide
/-- AL9 -/
theorem test_xorReg : (after 0x8013 (regs [(0, 0xF0), (1, 0x3C)])).reg 0 = 0xCC := by decide
/-- AL14: `Y = 15` adds the old flag -/
theorem test_addReg_old_flag :
    let t := after 0x80F4 (regs [(0, 0xFF), (15, 1)]); t.reg 0 = 0 ∧ t.reg 15 = 1 := by decide
/-- AL16: `X = 15` ends holding the carry -/
theorem test_addReg_flag_last : (after 0x8F14 (regs [(15, 1), (1, 2)])).reg 15 = 0 := by decide
/-- S4, AL18 -/
theorem test_subReg_keeps_on_borrow :
    let t := after 0x8015 (regs [(0, 2), (1, 5), (15, 1)]); t.reg 0 = 2 ∧ t.reg 15 = 0 := by decide
/-- AL19 -/
theorem test_subReg_equal :
    let t := after 0x8015 (regs [(0, 7), (1, 7), (15, 1)]); t.reg 0 = 7 ∧ t.reg 15 = 0 := by decide
/-- AL24 -/
theorem test_shr_ignores_y :
    let t := after 0x8216 (regs [(2, 4), (1, 0xFF), (15, 1)])
    t.reg 2 = 2 ∧ t.reg 15 = 0 ∧ t.reg 1 = 0xFF := by decide
/-- AL29 -/
theorem test_subnReg : let t := after 0x8017 (regs [(0, 2), (1, 5)]); t.reg 0 = 3 ∧ t.reg 15 = 1 := by decide
/-- AL32 -/
theorem test_shl : let t := after 0x820E (regs [(2, 0x81)]); t.reg 2 = 2 ∧ t.reg 15 = 1 := by decide
/-- IM1 -/
theorem test_ldI : (after 0xA300 { State.reset with i := 0xFFFF }).i = 0x300 := by decide
/-- AL38: whatever byte is drawn -/
theorem test_rnd_mask_zero :
    let t := after 0xC300 State.reset; t.draws = 1 ∧ t.pc = 0x202 := by decide
/-- DR4 -/
theorem test_drw_wraps :
    let t := after 0xD012 (bytesAt 0x20C [0xC0, 0xC0] { regs [(0, 0x3F), (1, 0x1F)] with i := 0x20C })
    cellAt t.disp 31 63 ∧ cellAt t.disp 31 0 ∧ cellAt t.disp 0 63 ∧ cellAt t.disp 0 0 ∧
      cellAt t.disp 1 0 = false ∧ t.reg 15 = 0 ∧ t.drawPending := by decide
/-- DR7 -/
theorem test_drw_collides :
    let d := toggleCell (toggleCell State.reset.disp 0 3) 0 4
    let t := after 0xD011 (bytesAt 0x300 [0xF0] { State.reset with disp := d, i := 0x300 })
    cellAt t.disp 0 2 ∧ cellAt t.disp 0 3 = false ∧ cellAt t.disp 0 4 ∧ t.reg 15 = 1 := by decide
/-- DR12 -/
theorem test_drw_out_of_range :
    let t := after 0xD012 { State.reset with i := 0xFFF }
    t.run = .faulted (.addressOutOfRange 0x1000) ∧ t.pc = 0x200 ∧ t.drawPending = false := by decide
/-- DR8 -/
theorem test_cls :
    let t := after 0x00E0 { regs [(15, 1)] with disp := toggleCell State.reset.disp 31 63 }
    cellAt t.disp 31 63 = false ∧ t.reg 15 = 1 ∧ t.drawPending := by decide
/-- KT3 -/
theorem test_skp_no_key_0x17 :
    (after 0xE59E { regs [(5, 0x17)] with key := Vector.replicate 16 true, pc := 0x220 }).pc = 0x222 := by decide
/-- KT4 -/
theorem test_sknp_no_key_0xFF :
    (after 0xE5A1 { regs [(5, 0xFF)] with key := Vector.replicate 16 true, pc := 0x220 }).pc = 0x224 := by decide
/-- KT10 -/
theorem test_ldVxDt : (after 0xF307 { State.reset with dt := 0x2A }).reg 3 = 0x2A := by decide
/-- KT5 -/
theorem test_ldVxK_stalls : let t := after 0xF10A (regs [(1, 0x33)]); t.pc = 0x200 ∧ t.reg 1 = 0x33 := by decide
/-- KT7 -/
theorem test_ldVxK_lowest :
    let t := after 0xF20A { State.reset with key := (State.reset.key.set 3 true).set 9 true }
    t.reg 2 = 3 ∧ t.pc = 0x202 := by decide
/-- KT11 -/
theorem test_ldDtVx : (after 0xF115 (regs [(1, 7)])).dt = 7 := by decide
/-- FD10: with TIMER_PER_CYCLE -/
theorem test_ldDtVx_timer_per_cycle :
    (after 0xF115 { regs [(1, 7)] with cfg := { Settings.default with timerPerCycle := true } }).dt = 6 := by decide
/-- KT12 -/
theorem test_ldStVx : let t := after 0xF118 (regs [(1, 0x3C)]); t.st = 0x3C ∧ t.dt = 0 := by decide
/-- IM4 -/
theorem test_addI_wraps : (after 0xF11E { regs [(1, 1)] with i := 0xFFFF }).i = 0 := by decide
/-- IM8 -/
theorem test_ldF_no_mask : (after 0xF029 (regs [(0, 0x10)])).i = 0xA0 := by decide
/-- IM10 -/
theorem test_ldB :
    let t := after 0xF033 { regs [(0, 0x9C)] with i := 0x300 }
    t.readBytes 0x300 3 = [1, 5, 6] ∧ t.i = 0x300 := by decide
/-- IM14 -/
theorem test_ldB_out_of_range :
    let t := after 0xF033 { regs [(0, 0xFF)] with i := 0xFFE }
    t.run = .faulted (.addressOutOfRange 0x1000) ∧ t.pc = 0x200 ∧ t.readBytes 0xFFE 2 = [0, 0] := by decide
/-- IM16 -/
theorem test_storeRegs :
    let t := after 0xF255 { regs [(0, 1), (1, 2), (2, 3)] with i := 0x400 }
    t.readBytes 0x400 4 = [1, 2, 3, 0] ∧ t.i = 0x403 := by decide
/-- IM19 -/
theorem test_storeRegs_out_of_range :
    let t := after 0xF155 { regs [(0, 1), (1, 2)] with i := 0xFFF }
    t.run = .faulted (.addressOutOfRange 0x1000) ∧ t.readByte 0xFFF = 0 ∧ t.i = 0xFFF := by decide
/-- IM20 -/
theorem test_loadRegs :
    let t := after 0xF265 (bytesAt 0x300 [1, 5, 6] { regs [(3, 0x77)] with i := 0x300 })
    t.reg 0 = 1 ∧ t.reg 1 = 5 ∧ t.reg 2 = 6 ∧ t.reg 3 = 0x77 ∧ t.i = 0x303 := by decide
/-- IM22 -/
theorem test_loadRegs_out_of_range :
    (after 0xF065 { State.reset with i := 0xFFFF }).run = .faulted (.addressOutOfRange 0xFFFF) := by decide

/-! ### Fetch, scheduler, ports -/

/-- FD4 -/
theorem test_fetch_last_byte :
    (after 0 { State.reset with pc := 0xFFF }).run = .faulted (.addressOutOfRange 0x1000) := by decide
/-- The machine with a ROM loaded, the loop not yet started. -/
def withRom (bs : List Byte) : State :=
  match State.reset.load bs with
  | .loaded _ t => t
  | _ => State.reset

/-- FD6: the first step from reset, with an empty ROM -/
theorem test_empty_rom_runs_zero_word : (stepped (withRom [])).run = .faulted (.illegalOpcode 0) := by decide
/-- R337: load, start, one cycle -/
theorem test_rom_first_cycle :
    let t := stepped (withRom [0x6A, 0x05])
    t.reg 10 = 5 ∧ t.pc = 0x202 := by decide
/-- R332: no start without a load -/
theorem test_no_start_before_load : step State.reset = .fault .notLoaded := by rfl

/-- `n` units of 1/4200 second at the default settings (spec/95_test_vectors.md section 8). -/
def u (n : Nat) : Nat := 1200 * n

/-- SC1: read at 5u, nothing is due. -/
theorem test_sc1_nothing_due :
    let t := stepped { withRom [] with clockFeed := [0, u 5] }
    t.now = u 5 ∧ t.pc = 0x200 ∧ t.run = .running := by decide
/-- SC3 -/
theorem test_sc3_tick :
    let t := stepped { State.reset with phase := .cycles, now := u 70, lastInstructionTick := u 66, dt := 3 }
    t.dt = 2 ∧ t.lastTimerTick = u 70 := by decide
/-- SC6 -/
theorem test_sc6_frame :
    let t := stepped { State.reset with phase := .cycles, now := u 40, lastInstructionTick := u 40, drawPending := true }
    t.frames = [u 40] ∧ t.lastRenderTick = u 35 ∧ t.drawPending = false := by decide
/-- SC8 -/
theorem test_sc8_queued_event_before_close :
    let t := stepped { State.reset with phase := .ticks, inq := [.press 1], inqClosed := true }
    t.key[1] = true ∧ t.inq = [] ∧ t.run = .running := by decide
/-- SC8, the iteration after -/
theorem test_sc8_stop :
    let t := stepped { State.reset with phase := .ticks, inqClosed := true }
    t.run = .stopped := by decide
/-- SC9 -/
theorem test_sc9_no_key_16 : applyEvent (.press 16) State.reset.key = State.reset.key := by decide
/-- LD1: construction and `init()` make the reset state. -/
theorem test_construct_init : (construct Settings.default).init = State.reset := by decide +kernel
/-- LD5 -/
theorem test_load :
    State.reset.load [0x6A, 0x05] =
      .loaded 2 { State.reset with mem := [(0x200, 0x6A), (0x201, 0x05)], loaded := true } := by decide
/-- SC11 -/
theorem test_key_map :
    logicalKey .q = 4 ∧ logicalKey .v = 0xF ∧ logicalKey .x = 0 := by decide

/-! ### Witnesses: a state and operands that meet the hypotheses of each statement of the obligations file together -/

/-- The reset state with the word `w` placed and due. -/
def ready (w : Nat) (s : State) : State := s.withFetchWord 16 w
/-- The reset state with `I` set. -/
def idx (a : Word) : State := State.reset.setI a

/-- DecodeOfEncode, EncodeOfDecode, at the top of every field -/
theorem test_witness_encode : (Instr.drw 15 15 15).wellFormed = true ∧ decodeWord 0xDFFF = .ok (.drw 15 15 15) := by
  decide
/-- WordMatchesItsRowOnly -/
theorem test_witness_row : ∃ r ∈ opcodeRows, r.matches 0xDFFF = true := ⟨⟨23, 0xD000, 0xF000⟩, by decide, by decide⟩
/-- StepRunsDecodedInstruction -/
theorem test_witness_step :
    let s := ready 0x6A05 State.reset
    s.run = .running ∧ s.phase = .cycles ∧ s.lastInstructionTick + s.cfg.instrInterval ≤ s.now ∧
      s.pc.toNat + 2 ≤ Config.memSize ∧
      decodeWord (wordOfBytes (s.readByte s.pc.toNat) (s.readByte (s.pc.toNat + 1))) = .ok (.ldImm 10 5) ∧
      (Instr.ldImm 10 5).wellFormed = true ∧ ∃ t, exec (.ldImm 10 5) { s with pc := s.pc + 2 } = .next t :=
  ⟨rfl, rfl, by decide, by decide, by decide, rfl, _, rfl⟩
/-- RunningCoreAlwaysSteps: before the start of the loop and after it -/
theorem test_witness_running :
    ((withRom []).run = .running ∧ ((withRom []).phase = .boot → (withRom []).loaded = true)) ∧
      (ready 0 State.reset).run = .running ∧
      ((ready 0 State.reset).phase = .boot → (ready 0 State.reset).loaded = true) := by decide
/-- PlacedWordIsTheNextInstruction, at the last address a word fits -/
theorem test_witness_placed :
    let s := { State.reset with pc := 0xFFE }
    Memory.wf s.cfg.fontTable s.mem ∧ s.pc.toNat + 2 ≤ Config.memSize ∧ 0xDFFF < 65536 ∧
      decodeTableWord 16 0xDFFF = some (.drw 15 15 15) := by decide
/-- FetchOutsideMemoryFaults, at both ends of its range -/
theorem test_witness_fetch_fault :
    ([0xFFF, 0x1000, 0xFFFF].all fun p =>
      let s := ready 0 { State.reset with pc := p }
      decide (s.run = .running ∧ s.phase = .cycles ∧ s.lastInstructionTick + s.cfg.instrInterval ≤ s.now ∧
        0xFFF ≤ s.pc.toNat)) = true := by decide
/-- IllegalWordFaults -/
theorem test_witness_illegal :
    let s := ready 0xF0FF State.reset
    s.run = .running ∧ s.phase = .cycles ∧ s.lastInstructionTick + s.cfg.instrInterval ≤ s.now ∧
      s.pc.toNat + 2 ≤ Config.memSize ∧ IllegalWord (s.readWord s.pc.toNat).toNat := by
  unfold IllegalWord; decide
/-- IllegalWordsAreTheListedOnes: a first word of each line of R98 -/
theorem test_witness_illegal_lines :
    IllegalWord 0x0000 ∧ IllegalWord 0x5001 ∧ IllegalWord 0x8008 ∧ IllegalWord 0x9001 ∧ IllegalWord 0xE000 ∧
      IllegalWord 0xF000 ∧ ¬ IllegalWord 0x00E0 ∧ ¬ IllegalWord 0x00EE := by
  unfold IllegalWord; refine ⟨?_, ?_, ?_, ?_, ?_, ?_, ?_, ?_⟩ <;> decide
/-- FaultedCycleChangesOnlyRun, CycleIsBlindToTheScheduler: a fault at decode, at fetch, in an instruction -/
theorem test_witness_faulted :
    (∃ t, instructionCycle State.reset = .next t ∧ t.run = .faulted (.illegalOpcode 0)) ∧
    (∃ t, instructionCycle { State.reset with pc := 0xFFF } = .next t ∧ t.run = .faulted (.addressOutOfRange 0x1000)) ∧
    ∃ t, instructionCycle (ready 0xF055 (idx 0x1000)) = .next t ∧ t.run = .faulted (.addressOutOfRange 0x1000) :=
  ⟨⟨_, rfl, rfl⟩, ⟨_, rfl, rfl⟩, ⟨_, rfl, rfl⟩⟩
/-- PcAfterEveryInstruction: a fault, a return with the stack full, a return with it empty -/
theorem test_witness_pc :
    (∃ t, exec (.drw 0 0 1) { idx 0x1000 with pc := 0x202 } = .next t ∧ t.run ≠ .running) ∧
    (∃ t, exec .ret { State.reset with pc := 0x202, sp := 16 } = .next t ∧ t.run = .running) ∧
    ∃ t, exec .ret { State.reset with pc := 0x202 } = .next t ∧ t.run = .running :=
  ⟨⟨_, rfl, by decide⟩, ⟨_, rfl, rfl⟩, ⟨_, rfl, rfl⟩⟩
/-- OnlyDestinationRegistersChange: the register above the last one loaded -/
theorem test_witness_dest : (∃ t, exec (.loadRegs 2) State.reset = .next t) ∧ (3 : Reg) ∉ destRegs (.loadRegs 2) :=
  ⟨⟨_, rfl⟩, by decide⟩
/-- OnlyStoresChangeMemory: the bytes on both sides of those stored -/
theorem test_witness_mem :
    let s := idx 0x300
    Memory.wf s.cfg.fontTable s.mem ∧ ¬ (s.i.toNat ≤ 0x2FF ∧ 0x2FF < s.i.toNat + storeLen (.ldB 0)) ∧
      ¬ (s.i.toNat ≤ 0x303 ∧ 0x303 < s.i.toNat + storeLen (.ldB 0)) ∧ ∃ t, exec (.ldB 0) s = .next t :=
  ⟨by decide, by decide, by decide, _, rfl⟩
/-- SpecialStateHasItsWritersOnly: each clause has an instruction that changes what it speaks of -/
theorem test_witness_special :
    (∃ t, exec (.ldI 5) State.reset = .next t ∧ t.i ≠ State.reset.i) ∧
    (∃ t, exec (.call 5) State.reset = .next t ∧ t.sp ≠ State.reset.sp ∧ t.stack ≠ State.reset.stack) ∧
    (∃ t, exec (.ldDtVx 1) (regs [(1, 7)]) = .next t ∧ t.dt ≠ 0) ∧
    (∃ t, exec (.ldStVx 1) (regs [(1, 7)]) = .next t ∧ t.st ≠ 0) ∧
    (∃ t, exec .cls State.reset = .next t ∧ t.drawPending ≠ false) ∧
    (∃ t, exec (.rnd 0 1) State.reset = .next t ∧ t.draws ≠ 0) ∧
    (∃ t, exec .ret State.reset = .next t ∧ t.reports ≠ []) ∧
    ∃ t, exec (.loadRegs 0) (idx 0x1000) = .next t ∧ (idx 0x1000).run = .running ∧
      t.run = .faulted (.addressOutOfRange 0x1000) :=
  ⟨⟨_, rfl, by decide⟩, ⟨_, rfl, by decide, by decide⟩, ⟨_, rfl, by decide⟩, ⟨_, rfl, by decide⟩, ⟨_, rfl, by decide⟩,
    ⟨_, rfl, by decide⟩, ⟨_, rfl, by decide⟩, ⟨_, rfl, rfl, by decide⟩⟩
/-- OutOfRangeInstructionTraps: each of the four, at the lowest `I` that is out of range -/
theorem test_witness_out_of_range :
    (accessLen (.drw 0 0 15) ≠ 0 ∧ 4096 < (idx 0xFF2).i.toNat + accessLen (.drw 0 0 15)) ∧
    (accessLen (.ldB 0) ≠ 0 ∧ 4096 < (idx 0xFFE).i.toNat + accessLen (.ldB 0)) ∧
    (accessLen (.storeRegs 0) ≠ 0 ∧ 4096 < (idx 0x1000).i.toNat + accessLen (.storeRegs 0)) ∧
    accessLen (.loadRegs 15) ≠ 0 ∧ 4096 < (idx 0xFF1).i.toNat + accessLen (.loadRegs 15) := by decide
/-- JumpSetsPc -/
theorem test_witness_jump : (0xFFF : BitVec 12).toNat = 0xFFF ∧ State.reset.pc.toNat = (0x200 : BitVec 12).toNat := by
  decide
/-- CallPushesAndJumps, ReturnPopsOrReports: the boundary values of `sp` -/
theorem test_witness_sp :
    (15 : Fin 17).val = (15 : Fin 16).val ∧ (16 : Fin 17).val = 16 ∧ (16 : Fin 17).val = (15 : Fin 16).val + 1 ∧
      (1 : Fin 17).val = (0 : Fin 16).val + 1 ∧ State.reset.sp = 0 := by decide
/-- ReturnComesBackAfterCall: `b` is the state after the call itself -/
theorem test_witness_return :
    ({ State.reset with sp := 15 } : State).sp.val < 16 ∧
    ∃ c, exec (.call 0x300) { State.reset with sp := 15 } = .next c ∧ c.sp = c.sp ∧ c.stack = c.stack :=
  ⟨by decide, _, rfl, rfl, rfl⟩
/-- AddGivesSumAndCarry, SubtractStoresOnlyPositiveDifference, ShiftsGiveShiftedOutBit -/
theorem test_witness_not_flag : (14 : Reg) ≠ 15 := by decide
/-- DecimalDigitsAreStored, RegistersAreStored, RegistersAreLoaded: the last bytes of memory -/
theorem test_witness_store :
    Memory.wf (idx 0xFFD).cfg.fontTable (idx 0xFFD).mem ∧ (idx 0xFFD).i.toNat + 3 ≤ 4096 ∧
      (idx 0xFF0).i.toNat + (15 : Reg).val + 1 ≤ 4096 := by decide
/-- StoredRegistersLoadBack: `b` is the state after the store with `I` set back -/
theorem test_witness_load_back :
    Memory.wf (idx 0xFF0).cfg.fontTable (idx 0xFF0).mem ∧ (idx 0xFF0).i.toNat + (15 : Reg).val + 1 ≤ 4096 ∧
    ∃ a, exec (.storeRegs 15) (idx 0xFF0) = .next a ∧ (a.setI 0xFF0).mem = a.mem ∧ (a.setI 0xFF0).cfg = a.cfg ∧
      (a.setI 0xFF0).i = (idx 0xFF0).i :=
  ⟨by decide, by decide, _, rfl, rfl, rfl, rfl⟩
/-- FetchSeesStoredBytes -/
theorem test_witness_fetch_stored :
    Memory.wf (idx 0xFFE).cfg.fontTable (idx 0xFFE).mem ∧ (idx 0xFFE).i.toNat + (1 : Reg).val + 1 ≤ 4096 ∧
      (0 : Reg) < 1 ∧ (1 : Reg).val = (0 : Reg).val + 1 ∧
      ∃ t, exec (.storeRegs 1) (idx 0xFFE) = .next t :=
  ⟨by decide, by decide, by decide, by decide, _, rfl⟩
/-- DrawXorsTheSprite: no row at an address that does not exist, and fifteen rows at the end of memory -/
theorem test_witness_draw :
    ((Instr.drw 0 1 0).wellFormed = true ∧ ((0 : Nat) = 0 ∨ (idx 0xFFFF).i.toNat + 0 ≤ 4096)) ∧
      (Instr.drw 0 1 15).wellFormed = true ∧ ((15 : Nat) = 0 ∨ (idx 0xFF1).i.toNat + 15 ≤ 4096) := by decide
/-- DrawXorsTheSprite, its two flag clauses: glyph 0 over itself, and over an empty display -/
theorem test_witness_draw_flag :
    (cellAt (after 0xD015 (idx 0x50)).disp 0 0 = true ∧
      cellAt (after 0xD015 ((after 0xD015 (idx 0x50)).setPc 0x200)).disp 0 0 = false) ∧
    ∀ y x, cellAt State.reset.disp y x = true → cellAt (after 0xD015 (idx 0x50)).disp y x = true :=
  ⟨by decide, fun y x h => by simp [State.reset, cellAt, blankDisplay] at h⟩
/-- DrawingTwiceRestoresTheDisplay: `b` is the state after the first draw -/
theorem test_witness_draw_twice :
    (Instr.drw 0 1 5).wellFormed = true ∧ ((5 : Nat) = 0 ∨ (idx 0x50).i.toNat + 5 ≤ 4096) ∧
    ∃ a, exec (.drw 0 1 5) (idx 0x50) = .next a ∧ a.i = (idx 0x50).i ∧ a.reg 0 = (idx 0x50).reg 0 ∧
      a.reg 1 = (idx 0x50).reg 1 ∧ ∀ row, row < 5 → a.readByte (0x50 + row) = (idx 0x50).readByte (0x50 + row) :=
  ⟨rfl, by decide, _, rfl, rfl, by decide, by decide, fun _ _ => rfl⟩
/-- DisplayChangesByWholeInstructions -/
theorem test_witness_display :
    ∃ t, step (ready 0xD015 (idx 0x50)) = .next t ∧ cellAt t.snapshot 0 0 ≠ cellAt State.reset.snapshot 0 0 :=
  ⟨_, rfl, by decide⟩
/-- KeySkips: the last key and the first code that is none -/
theorem test_witness_keys :
    ((regs [(1, 15)]).reg 1).toNat = (15 : Fin 16).val ∧ 16 ≤ ((regs [(1, 16)]).reg 1).toNat := by decide
/-- KeyWaitTakesLowestKeyOrStalls: only the last key, and no key -/
theorem test_witness_key_wait :
    ((State.reset.key.set 15 true)[(15 : Fin 16)] = true ∧
      ∀ j : Fin 16, j < 15 → (State.reset.key.set 15 true)[j] = false) ∧
    ∀ k : Fin 16, State.reset.key[k] = false := by decide
/-- DueTickCountsBothTimersDown: in step 4, and from step 2 with a draw pending that is not due -/
theorem test_witness_tick :
    (let s := { State.reset with phase := .ticks, now := u 70 }
     s.run = .running ∧ s.phase = .ticks ∧ s.lastTimerTick + s.cfg.timerInterval ≤ s.now) ∧
    (let s := { State.reset with
        phase := .cycles, now := u 70, lastInstructionTick := u 70, drawPending := true, lastRenderTick := u 36 }
     s.run = .running ∧ s.phase = .cycles ∧ s.now < s.lastInstructionTick + s.cfg.instrInterval ∧
      (s.drawPending = true → s.now < s.lastRenderTick + s.cfg.renderInterval) ∧
      s.lastTimerTick + s.cfg.timerInterval ≤ s.now) := by decide
/-- Three cycles due at a key wait. -/
def burst : State := { (ready 0xF00A State.reset) with now := u 18 }
/-- BurstRunsEveryDueCycle, BurstCompletesOrFaults: the source's stall of three intervals (SC2) -/
theorem test_witness_burst :
    burst.run = .running ∧ burst.phase = .cycles ∧ burst.lastInstructionTick + 3 * burst.cfg.instrInterval ≤ burst.now ∧
      ∃ t, core.run 3 burst = .next t :=
  ⟨by decide, by decide, by decide, _, rfl⟩
/-- FrameSignalFollowsADraw, both clauses -/
theorem test_witness_frame :
    (let s := { State.reset with phase := .cycles, now := u 40, lastInstructionTick := u 40, drawPending := true }
     s.run = .running ∧ s.phase = .cycles ∧ s.now < s.lastInstructionTick + s.cfg.instrInterval ∧
      s.drawPending = true ∧ s.lastRenderTick + s.cfg.renderInterval ≤ s.now) ∧
    (∃ t, step (withRom []) = .next t) ∧ (withRom []).drawPending = false :=
  ⟨by decide, ⟨_, rfl⟩, rfl⟩
/-- IterationTakesOneEventStopsOrGoesOn: its first three clauses, the last key code and the first that is none -/
theorem test_witness_iteration :
    IterationOver { State.reset with phase := .ticks, inq := [.press 15] } ∧
    IterationOver { State.reset with phase := .cycles, inq := [.release 16] } ∧
    IterationOver { State.reset with phase := .ticks, inqClosed := true } := by
  unfold IterationOver; decide
/-- IterationTakesOneEventStopsOrGoesOn, the first iteration: an event queued before the start of the loop, and a feed
closed before it -/
theorem test_witness_first_iteration :
    (∃ s₀, IterationStart ((withRom []).hostPress 15) s₀) ∧ ∃ s₀, IterationStart (withRom []).hostClose s₀ :=
  ⟨⟨_, .inl ⟨rfl, rfl, rfl, _, rfl, rfl⟩⟩, ⟨_, .inl ⟨rfl, rfl, rfl, _, rfl, rfl⟩⟩⟩
/-- IterationTakesOneEventStopsOrGoesOn, its clause for an empty open feed: a reading one unit before a cycle is due, and
the very reading at which it is -/
theorem test_witness_open_iteration :
    (let s := { State.reset with phase := .ticks, clockFeed := [u 6 - 1] }
     IterationOver s ∧ s.inq = [] ∧ s.inqClosed = false ∧
      s.iterationReading < s.lastInstructionTick + s.cfg.instrInterval) ∧
    (let s := { State.reset with phase := .ticks, clockFeed := [u 6] }
     IterationOver s ∧ s.inq = [] ∧ s.inqClosed = false ∧
      s.lastInstructionTick + s.cfg.instrInterval ≤ s.iterationReading) := by
  unfold IterationOver; decide
/-- ClockNeverGoesBack: a step that changes the reading at the start of the loop, and one at a new iteration -/
theorem test_witness_clock :
    (∃ t, step { withRom [] with clockFeed := [u 5] } = .next t ∧ (withRom []).now ≠ t.now) ∧
    ∃ t, step { withRom [] with phase := .ticks, clockFeed := [u 5] } = .next t ∧ (withRom []).now ≠ t.now :=
  ⟨⟨_, rfl, by decide⟩, ⟨_, rfl, by decide⟩⟩
/-- LoopStartsFromOneReading: its clauses without a load, with one, and with readings listed -/
theorem test_witness_loop :
    (State.reset.run = .running ∧ State.reset.phase = .boot ∧ State.reset.loaded = false) ∧
    (withRom []).loaded = true ∧
    let s := { withRom [] with clockFeed := [u 5, u 11] }
    s.run = .running ∧ s.phase = .boot ∧ s.clockFeed = u 5 :: [u 11] ∧ s.now ≤ u 5 ∧ ∃ t, step s = .next t :=
  ⟨⟨rfl, rfl, rfl⟩, rfl, rfl, rfl, rfl, by decide, _, rfl⟩
/-- SchedulerInvariantKept, ProcessorInvariantKept, TimedRunsAreFairTimeFreeRuns, OutputsOnlyGrow -/
theorem test_witness_invariants :
    SchedInv (ready 0x00EE State.reset) ∧ ProcInv (ready 0x00EE State.reset) ∧
      ∃ t, step (ready 0x00EE State.reset) = .next t := by
  refine ⟨?_, ?_, _, rfl⟩
  · unfold SchedInv; decide
  · unfold ProcInv; decide
/-- OutputsOnlyGrow: a closed feed, and a step that stops -/
theorem test_witness_stop :
    ∃ t, step (withRom []).hostClose = .next t ∧ t.run = .stopped := ⟨_, rfl, rfl⟩
/-- ReachableStatesKeepInvariants, ReachableIterationsEndCaughtUp: after a start at reading 0 and an iteration at 5u -/
theorem test_witness_reachable : ∃ s, Reachable s ∧ IterationOver s :=
  ⟨_, .core (.host (.host (.load [] .reset rfl) (.clock 0)) (.clock (u 5))) rfl, by unfold IterationOver; decide⟩
/-- IntervalsAreExact -/
theorem test_witness_rates : Settings.default.legal := by decide
/-- HostPortsTakeTheirCalls, LOAD: the longest program that fits, one byte more, and the two states without a step -/
theorem test_witness_load :
    State.reset.phase = .boot ∧ State.reset.loaded = false ∧ Memory.wf Settings.default.fontTable State.reset.mem ∧
      (List.replicate 3584 (0 : Byte)).length ≤ 3584 ∧ 3584 < (List.replicate 3585 (0 : Byte)).length ∧
      (withRom []).loaded = true ∧ (ready 0 State.reset).phase ≠ .boot :=
  ⟨rfl, rfl, by decide, by rw [List.length_replicate], by rw [List.length_replicate]; decide, rfl, by decide⟩
/-- HostPortsTakeTheirCalls, CONFIG and INPUT: the least positive rate, a rate of 0, an open feed and a closed one -/
theorem test_witness_ports :
    (State.reset.phase = .boot ∧ 0 < (⟨1, 1⟩ : Rate).num ∧ 0 < (⟨1, 1⟩ : Rate).den) ∧
    ((⟨0, 1⟩ : Rate).num = 0 ∧ (⟨1, 0⟩ : Rate).den = 0) ∧
    State.reset.inqClosed = false ∧ State.reset.hostClose.inqClosed = true := by decide

/-! ### An endless run -/

/-- A machine at 60 cycles a second with a jump to itself at 0x200, and its clock at the `n`-th beat. -/
def beat (n : Nat) : State :=
  { State.reset with
    cfg := { Settings.default with instrHz := ⟨60, 1⟩ }, mem := [(0x200, 0x12)], loaded := true
    phase := .ticks, now := 7200 * n, lastInstructionTick := 7200 * n, lastTimerTick := 7200 * n }
/-- After the cycle and before the tick of a beat. -/
def offBeat (n : Nat) : State :=
  { beat n with phase := .cycles, now := 7200 * (n + 1), lastInstructionTick := 7200 * (n + 1) }
/-- The two alternating, for ever. -/
def beats (n : Nat) : State := if n % 2 = 0 then beat (n / 2) else offBeat (n / 2)

theorem test_beat_intervals : (beat 0).cfg.instrInterval = 7200 ∧ (beat 0).cfg.timerInterval = 7200 := by decide

theorem test_step_beat (n : Nat) : step (beat n) = .next (offBeat n) := by
  have hi : (beat n).cfg.instrInterval = 7200 := test_beat_intervals.1
  have ht : (beat n).cfg.timerInterval = 7200 := test_beat_intervals.2
  have ho : IterationOver (beat n) := by
    refine ⟨rfl, ?_, .inl rfl⟩
    rw [State.timerDue, ht]; simp [beat]
  have hr : (beat n).readNow = { beat n with phase := .cycles, now := 7200 * (n + 1) } := by
    have : (beat n).iterationReading = 7200 * (n + 1) := by
      rw [State.iterationReading, hi, show (beat n).now = 7200 * n from rfl, show (beat n).clockFeed = [] from rfl,
        show (beat n).lastInstructionTick = 7200 * n from rfl, List.headD_nil]
      omega
    rw [State.readNow_eq, this]; rfl
  have hd : (beat n).readNow.instrDue = true := by
    have : (beat n).readNow.cfg.instrInterval = 7200 := by rw [hr]; exact hi
    rw [State.instrDue, this, hr, decide_eq_true_eq]; simp only [beat]; omega
  have hc : instructionCycle (beat n).readNow = .next (beat n).readNow := by
    rw [hr]
    exact instructionCycle_of_decode (i := .jp 0x200) (by simp [beat, State.reset]) (by
      show decodeWord (wordOfBytes (Memory.read Config.standardFont [(0x200, 0x12)] 0x200) (Memory.read Config.standardFont [(0x200, 0x12)] 0x201)) = _
      decide) rfl
  rw [step_of_iterationStart (.inr ⟨ho, rfl⟩), State.startIteration]
  simp only [show (beat n).inq = [] from rfl, show (beat n).inqClosed = false from rfl, hd, State.dueCycle, hc]
  rw [hr]
  simp [offBeat, beat, Settings.instrInterval, Settings.default, Nat.mul_add]

theorem test_step_offBeat (n : Nat) : step (offBeat n) = .next (beat (n + 1)) := by
  have hi : (offBeat n).cfg.instrInterval = 7200 := test_beat_intervals.1
  have ht : (offBeat n).cfg.timerInterval = 7200 := test_beat_intervals.2
  have h1 : (offBeat n).instrDue = false := by rw [State.instrDue, hi]; simp [offBeat]
  have h2 : (offBeat n).frameDue = false := rfl
  have h3 : (offBeat n).timerDue = true := by rw [State.timerDue, ht, decide_eq_true_eq]; simp only [offBeat, beat]; omega
  have : step (offBeat n) = .next (offBeat n).dueTick := by
    simp [step, schedulerStep, show (offBeat n).run = .running from rfl, show (offBeat n).phase = .cycles from rfl,
      State.cyclesPhase, State.ticksPhase, h1, h2, h3]
  rw [this, State.dueTick, ht]
  simp [offBeat, beat, State.timerTick, State.reset, countDown, Nat.mul_add]

/-- TimedRunsAreFairTimeFreeRuns: an endless run that keeps running, with a clock that advances past every reading -/
theorem test_witness_timed_run : TimedRun beats ∧ ClockAdvances beats ∧ ∀ n, (beats n).run = .running := by
  refine ⟨fun n => .inl ?_, fun _ r => ⟨2 * r, ?_⟩, fun n => ?_⟩
  · unfold beats
    rcases Nat.mod_two_eq_zero_or_one n with h | h
    · rw [if_pos h, if_neg (by omega), show (n + 1) / 2 = n / 2 by omega]; exact test_step_beat _
    · rw [if_neg (by omega), if_pos (by omega), show (n + 1) / 2 = n / 2 + 1 by omega]; exact test_step_offBeat _
  · rw [beats, if_pos (by omega), show 2 * r / 2 = r by omega]; simp only [beat]; omega
  · unfold beats; split <;> rfl


end Sys2Proof.Tests
end

section
/-! PROOFS of the statements of spec/00_scope.md: the intervals, the clock reading and the invariant of the scheduler. -/

namespace Sys2Proof

/-! ### Legal settings -/

theorem Settings.legal.timerHz_num {c : Settings} (h : c.legal) : c.timerHz.num = 60 := by
  obtain ⟨-, -, htimer, -⟩ := h
  rw [htimer]

theorem Settings.legal.timerHz_den {c : Settings} (h : c.legal) : c.timerHz.den = 1 := by
  obtain ⟨-, -, htimer, -⟩ := h
  rw [htimer]

theorem Settings.legal.timerHz_positive {c : Settings} (h : c.legal) : c.timerHz.positive := by
  simp [Rate.positive, h.timerHz_num, h.timerHz_den]

theorem Settings.legal.instrInterval_pos {c : Settings} (h : c.legal) : 0 < c.instrInterval := by
  obtain ⟨htimer, -⟩ := h.timerHz_positive
  obtain ⟨⟨-, hinstr⟩, ⟨hrender, -⟩, -, hres⟩ := h
  exact Nat.mul_pos hres (Nat.mul_pos htimer (Nat.mul_pos hinstr hrender))

theorem Settings.legal.renderInterval_pos {c : Settings} (h : c.legal) : 0 < c.renderInterval := by
  obtain ⟨htimer, -⟩ := h.timerHz_positive
  obtain ⟨⟨hinstr, -⟩, ⟨-, hrender⟩, -, hres⟩ := h
  exact Nat.mul_pos hres (Nat.mul_pos htimer (Nat.mul_pos hinstr hrender))

theorem Settings.legal.timerInterval_pos {c : Settings} (h : c.legal) : 0 < c.timerInterval := by
  obtain ⟨-, htimer⟩ := h.timerHz_positive
  obtain ⟨⟨hinstr, -⟩, ⟨hrender, -⟩, -, hres⟩ := h
  exact Nat.mul_pos hres (Nat.mul_pos htimer (Nat.mul_pos hinstr hrender))

/-! ### An interval times its rate, for every value of the settings -/

theorem Settings.instrInterval_mul_num (c : Settings) :
    c.instrInterval * c.instrHz.num = c.unitsPerSecond * c.instrHz.den := by
  rw [Settings.instrInterval, Settings.unitsPerSecond]; ring

theorem Settings.renderInterval_mul_num (c : Settings) :
    c.renderInterval * c.renderHz.num = c.unitsPerSecond * c.renderHz.den := by
  rw [Settings.renderInterval, Settings.unitsPerSecond]; ring

theorem Settings.timerInterval_mul_num (c : Settings) :
    c.timerInterval * c.timerHz.num = c.unitsPerSecond * c.timerHz.den := by
  rw [Settings.timerInterval, Settings.unitsPerSecond]; ring

/-- Settles O53: the three products are exact for every settings value; a legal timer rate is 60/1. -/
theorem intervalsAreExact : Obligations.IntervalsAreExact := by
  intro c
  refine ⟨c.instrInterval_mul_num, c.renderInterval_mul_num, c.timerInterval_mul_num, fun h => ?_⟩
  have hsecond : c.timerInterval * 60 = c.unitsPerSecond := by
    simpa [h.timerHz_num, h.timerHz_den] using c.timerInterval_mul_num
  exact ⟨hsecond, h.instrInterval_pos, h.renderInterval_pos, h.timerInterval_pos⟩

namespace Machine

/-! ### What is due, as an inequality -/

theorem State.instrDue_iff {s : State} :
    s.instrDue = true ↔ s.lastInstructionTick + s.cfg.instrInterval ≤ s.now := by
  simp [State.instrDue]

theorem State.instrDue_eq_false_iff {s : State} :
    s.instrDue = false ↔ s.now < s.lastInstructionTick + s.cfg.instrInterval := by
  simp [State.instrDue]

theorem State.timerDue_iff {s : State} :
    s.timerDue = true ↔ s.lastTimerTick + s.cfg.timerInterval ≤ s.now := by
  simp [State.timerDue]

theorem State.frameDue_iff {s : State} :
    s.frameDue = true ↔ s.drawPending = true ∧ s.lastRenderTick + s.cfg.renderInterval ≤ s.now := by
  simp [State.frameDue]

/-! ### The clock reading -/

theorem IterationStart.boot_or_over {s s₀ : State} (h : IterationStart s s₀) :
    s.phase = .boot ∨ IterationOver s :=
  h.imp (fun ⟨_, hboot, _⟩ => hboot) (fun ⟨hover, _⟩ => hover)

theorem IterationStart.now_le {s s₀ : State} (h : IterationStart s s₀) : s.now ≤ s₀.now := by
  obtain ⟨n, cf, a, b, c, p, hle, rfl⟩ := h.eq
  exact hle

theorem IterationStart.now_le_readNow {s s₀ : State} (h : IterationStart s s₀) : s.now ≤ s₀.readNow.now :=
  h.now_le.trans s₀.le_readNow

theorem State.afterDue_now {s u : State} (h : instructionCycle s = .next u) : u.afterDue.now = s.now :=
  (instructionCycle_untouched h).now

/-- A step either stays in its iteration, with the reading unchanged, or starts one, with a reading not below. -/
theorem step_now {s t : State} (h : step s = .next t) :
    t.now = s.now ∨ (∃ s₀, IterationStart s s₀) ∧ s.now ≤ t.now := by
  obtain ⟨-, hcase⟩ := step_cases h
  cases hcase with
  | cycle u _ _ hu ht => exact .inl (ht ▸ State.afterDue_now hu)
  | frame _ _ _ ht => exact .inl (ht ▸ rfl)
  | tick _ _ ht => exact .inl (ht ▸ rfl)
  | deliver s₀ e rest hs _ ht =>
    exact .inr ⟨⟨s₀, hs⟩, ht ▸ hs.now_le.trans
      (State.le_readNow { s₀ with key := applyEvent e s₀.key, inq := rest })⟩
  | stop s₀ hs _ _ ht => exact .inr ⟨⟨s₀, hs⟩, ht ▸ hs.now_le⟩
  | start s₀ u hs _ _ _ hu ht => exact .inr ⟨⟨s₀, hs⟩, ht ▸ State.afterDue_now hu ▸ hs.now_le_readNow⟩
  | idle s₀ hs _ _ _ ht => exact .inr ⟨⟨s₀, hs⟩, ht ▸ hs.now_le_readNow⟩

/-- Settles O48: only the step that starts an iteration reads the clock, and no reading goes back. -/
theorem clockNeverGoesBack : Obligations.ClockNeverGoesBack := by
  intro s t h
  rcases step_now h with hsame | ⟨⟨s₀, hs⟩, hle⟩
  · exact ⟨hsame.ge, fun hne => absurd hsame.symm hne⟩
  · exact ⟨hle, fun _ => hs.boot_or_over⟩

/-! ### The invariant of the scheduler, move by move -/

theorem SchedInv.loaded_of_phase {s : State} (h : SchedInv s) {p : Phase} (hp : s.phase = p) (hne : p ≠ .boot) :
    s.loaded = true := by
  obtain ⟨-, hload, -⟩ := h
  exact hload (hp ▸ hne)

/-- What step 1 sees at the start of an iteration: at the start of the loop the accumulators are the reading and a legal
interval is positive, so nothing is due; later it is the state before the step. -/
theorem SchedInv.iterationStart {s s₀ : State} (h : SchedInv s) (hs : IterationStart s s₀) :
    SchedInv s₀ ∧ s₀.loaded = true := by
  rcases hs with ⟨-, -, hl, t₀, -, rfl⟩ | ⟨⟨-, -, hp | ⟨hp, -⟩⟩, rfl⟩
  · obtain ⟨hcfg, -⟩ := h
    exact ⟨⟨hcfg, fun _ => hl, le_rfl, le_rfl, le_rfl,
      fun _ => Nat.lt_add_of_pos_right hcfg.instrInterval_pos⟩, hl⟩
  · exact ⟨h, h.loaded_of_phase hp nofun⟩
  · exact ⟨h, h.loaded_of_phase hp nofun⟩

theorem SchedInv.readNow {s : State} (h : SchedInv s) (hl : s.loaded = true) : SchedInv s.readNow := by
  obtain ⟨hcfg, -, hinstr, hrender, htimer, -⟩ := h
  have hle := s.le_readNow
  rw [State.readNow_eq] at hle ⊢
  exact ⟨hcfg, fun _ => hl, hinstr.trans hle, hrender.trans hle, htimer.trans hle, nofun⟩

/-- A due cycle advances its accumulator by one interval, which its being due keeps at or below the reading. -/
theorem SchedInv.afterDue {s u : State} (h : SchedInv s) (hl : s.loaded = true) (hdue : s.instrDue = true)
    (hu : instructionCycle s = .next u) : SchedInv u.afterDue := by
  obtain ⟨hcfg, -, -, hrender, htimer, -⟩ := h
  have hsame := instructionCycle_untouched hu
  simp only [SchedInv, State.afterDue, hsame.cfg, hsame.loaded, hsame.now, hsame.lastInstructionTick,
    hsame.lastRenderTick, hsame.lastTimerTick]
  exact ⟨hcfg, fun _ => hl, State.instrDue_iff.1 hdue, hrender, htimer, nofun⟩

theorem SchedInv.signalFrame {s : State} (h : SchedInv s) (hl : s.loaded = true) (hcycles : s.instrDue = false)
    (hdue : s.frameDue = true) : SchedInv s.signalFrame := by
  obtain ⟨hcfg, -, hinstr, -, htimer, -⟩ := h
  exact ⟨hcfg, fun _ => hl, hinstr, (State.frameDue_iff.1 hdue).2, htimer,
    fun _ => State.instrDue_eq_false_iff.1 hcycles⟩

theorem SchedInv.dueTick {s : State} (h : SchedInv s) (hl : s.loaded = true) (hcycles : s.instrDue = false)
    (hdue : s.timerDue = true) : SchedInv s.dueTick := by
  obtain ⟨hcfg, -, hinstr, hrender, -, -⟩ := h
  exact ⟨hcfg, fun _ => hl, hinstr, hrender, State.timerDue_iff.1 hdue,
    fun _ => State.instrDue_eq_false_iff.1 hcycles⟩

/-- In step 4 of an iteration no cycle is due. -/
theorem SchedInv.instrDue_of_ticks {s : State} (h : SchedInv s) (hp : s.phase = .ticks) : s.instrDue = false := by
  obtain ⟨-, -, -, -, -, hleft⟩ := h
  exact State.instrDue_eq_false_iff.2 (hleft hp)

/-- Settles O50, by the cases of a step; a new iteration is `SchedInv.iterationStart` and what step 1 does next. -/
theorem schedulerInvariantKept : Obligations.SchedulerInvariantKept := by
  intro s t h hstep
  obtain ⟨-, hcase⟩ := step_cases hstep
  cases hcase with
  | cycle u hp hdue hu ht =>
    subst ht
    exact h.afterDue (h.loaded_of_phase hp nofun) hdue hu
  | frame hp hcycles hdue ht =>
    subst ht
    exact h.signalFrame (h.loaded_of_phase hp nofun) hcycles hdue
  | tick hplace hdue ht =>
    subst ht
    rcases hplace with ⟨hp, hcycles, -⟩ | hp
    · exact h.dueTick (h.loaded_of_phase hp nofun) hcycles hdue
    · exact h.dueTick (h.loaded_of_phase hp nofun) (h.instrDue_of_ticks hp) hdue
  | deliver s₀ e rest hs _ ht =>
    subst ht
    obtain ⟨h₀, hl⟩ := h.iterationStart hs
    exact SchedInv.readNow (s := { s₀ with key := applyEvent e s₀.key, inq := rest }) h₀ hl
  | stop s₀ hs _ _ ht =>
    subst ht
    obtain ⟨h₀, -⟩ := h.iterationStart hs
    exact h₀
  | start s₀ u hs _ _ hdue hu ht =>
    subst ht
    obtain ⟨h₀, hl⟩ := h.iterationStart hs
    have hloaded : s₀.readNow.loaded = true := by rw [State.readNow_eq]; exact hl
    exact (h₀.readNow hl).afterDue hloaded hdue hu
  | idle s₀ hs _ _ _ ht =>
    subst ht
    obtain ⟨h₀, hl⟩ := h.iterationStart hs
    exact h₀.readNow hl

end Machine
end Sys2Proof
end

section
/-! PROOFS of the statements of spec/10_state.md: who may write what, the processor's invariant, what a step does to the
display, the timers and the outputs, and the state after reset. -/

namespace Sys2Proof.Machine

/-! ### Who writes what -/

/-- What an instruction may write: a field differs after it only if `ins` is one of the field's writers (R25 to R43);
memory only by a store of `storeLen` bytes from `I` on that fits (R61, R62, R71); `run` only by a fault, which has no
other effect but on `pc` (R128, R302). -/
structure WrittenByOwners (ins : Instr) (s t : State) : Prop where
  i : t.i = s.i ∨ (∃ nnn, ins = .ldI nnn) ∨
    ∃ x, ins = .addI x ∨ ins = .ldF x ∨ ins = .storeRegs x ∨ ins = .loadRegs x
  sp : t.sp = s.sp ∨ ins = .ret ∨ ∃ nnn, ins = .call nnn
  stack : t.stack = s.stack ∨ ∃ nnn, ins = .call nnn
  dt : t.dt = s.dt ∨ ∃ x, ins = .ldDtVx x
  st : t.st = s.st ∨ ∃ x, ins = .ldStVx x
  disp : t.disp = s.disp ∨ ins = .cls ∨ ∃ x y n, ins = .drw x y n
  drawPending : t.drawPending = s.drawPending ∨ ins = .cls ∨ ∃ x y n, ins = .drw x y n
  draws : t.draws = s.draws ∨ ∃ x kk, ins = .rnd x kk
  reports : t.reports = s.reports ∨ ins = .ret ∨ ∃ nnn, ins = .call nnn
  mem : t.mem = s.mem ∨ ∃ bs, bs.length = storeLen ins ∧ rangeFault s.base bs.length = none ∧
    t.mem = (s.storeBytes s.base bs).mem
  run : t.run = s.run ∨ ∃ c, t = s.raiseInInstr c

theorem writtenByOwners_raiseInInstr (i : Instr) (s : State) (c : Cause) :
    WrittenByOwners i s (s.raiseInInstr c) := by
  constructor <;> simp

theorem exec_writtenByOwners {i : Instr} {s t : State} (h : exec i s = .next t) : WrittenByOwners i s t := by
  cases i
  case ret => rcases execRet_cases h with ⟨-, rfl⟩ | ⟨j, p, -, -, rfl⟩ <;> constructor <;> simp
  case call => rcases execCall_cases h with ⟨-, rfl⟩ | ⟨j, p, -, -, rfl⟩ <;> constructor <;> simp
  case ldVxK => rcases execLdVxK_cases h with ⟨k, -, rfl⟩ | ⟨-, rfl⟩ <;> constructor <;> simp
  case drw =>
    rcases execDrw_cases h with ⟨-, d, f, rfl⟩ | ⟨a, -, rfl⟩
    · constructor <;> simp
    · exact writtenByOwners_raiseInInstr _ _ _
  case ldB x =>
    rcases execLdB_cases h with ⟨hr, rfl⟩ | ⟨a, -, rfl⟩
    · constructor
      case mem => exact .inr ⟨decimalDigits (s.reg x), rfl, hr, rfl⟩
      all_goals simp
    · exact writtenByOwners_raiseInInstr _ _ _
  case storeRegs x =>
    rcases execStoreRegs_cases h with ⟨hr, rfl⟩ | ⟨a, -, rfl⟩
    · constructor
      case mem => exact .inr ⟨_, s.length_regsUpTo x, (s.length_regsUpTo x).symm ▸ hr, rfl⟩
      all_goals simp
    · exact writtenByOwners_raiseInInstr _ _ _
  case loadRegs =>
    rcases execLoadRegs_cases h with ⟨-, rfl⟩ | ⟨a, -, rfl⟩
    · constructor <;> simp
    · exact writtenByOwners_raiseInInstr _ _ _
  all_goals (cases h; constructor <;> simp)

/-- Settles O16: each clause is a field of `WrittenByOwners`. -/
theorem specialStateHasItsWritersOnly : Obligations.SpecialStateHasItsWritersOnly := by
  intro i s t h
  have w := exec_writtenByOwners h
  refine ⟨w.i.resolve_left, w.sp.resolve_left, w.stack.resolve_left, w.dt.resolve_left, w.st.resolve_left, ?_,
    w.draws.resolve_left, w.reports.resolve_left, ?_⟩
  · rintro (hdisp | hdirty)
    · exact w.disp.resolve_left hdisp
    · exact w.drawPending.resolve_left hdirty
  · intro hrun c hfault
    rcases w.run with hkept | ⟨c', rfl⟩
    · simp [hkept, hrun] at hfault
    · rw [State.raiseInInstr_run] at hfault
      cases hfault
      rfl

/-! ### Registers -/

/-- Settles O14, instruction by instruction: what is written is the destination's register, or no register. -/
theorem onlyDestinationRegistersChange : Obligations.OnlyDestinationRegistersChange := by
  intro i s t r h hr
  cases i
  case ret => rcases execRet_cases h with ⟨-, rfl⟩ | ⟨j, p, -, -, rfl⟩ <;> rfl
  case call => rcases execCall_cases h with ⟨-, rfl⟩ | ⟨j, p, -, -, rfl⟩ <;> rfl
  case ldVxK x =>
    rcases execLdVxK_cases h with ⟨k, -, rfl⟩ | ⟨-, rfl⟩
    · exact s.reg_setReg_of_ne _ (by simpa [destRegs] using hr)
    · rfl
  case drw =>
    rcases execDrw_cases h with ⟨-, d, f, rfl⟩ | ⟨a, -, rfl⟩
    · exact State.reg_setReg_of_ne _ _ (by simpa [destRegs] using hr)
    · rfl
  case ldB => rcases execLdB_cases h with ⟨-, rfl⟩ | ⟨a, -, rfl⟩ <;> rfl
  case storeRegs => rcases execStoreRegs_cases h with ⟨-, rfl⟩ | ⟨a, -, rfl⟩ <;> rfl
  case loadRegs x =>
    rcases execLoadRegs_cases h with ⟨-, rfl⟩ | ⟨a, -, rfl⟩
    · have hlt : x.val < r.val := by simpa [destRegs] using hr
      rw [State.reg_setI, State.reg_setRegsFrom, if_neg (by simp; omega)]
    · rfl
  case ldImm | addImm | ldReg | orReg | andReg | xorReg | rnd | ldVxDt =>
    cases h
    exact State.reg_setReg_of_ne _ _ (by simpa [destRegs] using hr)
  case addReg x _ | shr x _ | shl x _ =>
    cases h
    obtain ⟨hx, hflag⟩ : r ≠ x ∧ r ≠ 15 := by simpa [destRegs] using hr
    rw [State.reg_setRegFlag, if_neg hflag, if_neg hx]
  case subReg x _ | subnReg x _ =>
    cases h
    obtain ⟨hx, hflag⟩ : r ≠ x ∧ r ≠ 15 := by simpa [destRegs] using hr
    rw [State.reg_subtract, if_neg hflag, if_neg (fun hdest => hx hdest.left)]
  case seImm | sneImm | seReg | sneReg | skp | sknp =>
    cases h
    exact State.reg_congr (s.skipIf_v _) r
  all_goals (cases h; rfl)

/-! ### Calls and returns -/

/-- `00EE` on an empty stack (R141). -/
theorem exec_ret_empty {s : State} (hsp : s.sp.val = 0) : exec .ret s = .next (s.report .stackUnderflow) := by
  rw [exec, execRet, s.pop_eq_none (Fin.ext hsp)]

/-- `00EE` with slot `j` the top one (R141). -/
theorem exec_ret_pop {s : State} {j : Fin 16} {p : Fin 17} (hsp : s.sp.val = j.val + 1) (hp : p.val = j.val) :
    exec .ret s = .next (({ s with sp := p } : State).setPc s.stack[j]) := by
  obtain ⟨j, hj⟩ := j
  obtain ⟨p, hp'⟩ := p
  obtain rfl : p = j := hp
  obtain rfl : p = s.sp.val - 1 := by simp [hsp]
  rw [exec, execRet, s.pop_eq_some (by omega)]
  rfl

/-- `2NNN` on a full stack (R143). -/
theorem exec_call_full {s : State} (nnn : BitVec 12) (hsp : s.sp.val = 16) :
    exec (.call nnn) s = .next ((s.report .stackOverflow).setPc (zextAddr nnn)) := by
  rw [exec, execCall, s.push_eq_none _ hsp]

/-- `2NNN` with slot `j` the first free one (R143). -/
theorem exec_call_push {s : State} (nnn : BitVec 12) {j : Fin 16} {p : Fin 17} (hsp : s.sp.val = j.val)
    (hp : p.val = j.val + 1) : exec (.call nnn) s =
      .next (({ s with sp := p, stack := s.stack.set j.val s.pc } : State).setPc (zextAddr nnn)) := by
  obtain ⟨j, hj⟩ := j
  obtain ⟨p, hp'⟩ := p
  obtain rfl : p = j + 1 := hp
  obtain rfl : j = s.sp.val := hsp.symm
  rw [exec, execCall, s.push_eq_some _ hj]

/-- Settles O21: the two cases of `execRet_cases`, exclusive by `sp`. -/
theorem returnPopsOrReports : Obligations.ReturnPopsOrReports := by
  intro s
  obtain ⟨t, h⟩ := exec_answers_next .ret s
  refine ⟨t, h, ?_⟩
  rcases execRet_cases h with ⟨hsp, rfl⟩ | ⟨j, p, hsp, hp, rfl⟩
  · refine ⟨fun j hj => absurd (hsp.symm.trans hj) (by omega), fun h0 => ⟨rfl, h0, rfl⟩, fun _ _ => rfl,
      fun _ => rfl, rfl⟩
  · refine ⟨fun k hk => ?_, fun h0 => ?_, fun _ _ => rfl, fun _ => rfl, rfl⟩
    · obtain rfl : k = j := Fin.ext (Nat.succ.inj (hk.symm.trans hsp))
      exact ⟨rfl, hp, rfl⟩
    · exact absurd (hsp.symm.trans (congrArg Fin.val h0)) (by simp)

/-- Settles O22: the call with room filled the slot that the return pops. -/
theorem returnComesBackAfterCall : Obligations.ReturnComesBackAfterCall := by
  intro nnn s c b hroom hcall hsp hstack
  rcases execCall_cases hcall with ⟨hfull, -⟩ | ⟨j, p, hj, hp, rfl⟩
  · omega
  · have hdepth : b.sp.val = j.val + 1 := (congrArg Fin.val hsp).trans hp
    have hslots : b.stack = s.stack.set j.val s.pc := hstack
    have htop : b.stack[j] = s.pc := by simp [hslots]
    have hret := exec_ret_pop (p := s.sp) hdepth hj
    rw [htop] at hret
    refine ⟨_, hret, rfl, rfl, fun k hk => ?_, rfl⟩
    have hne : j.val ≠ k.val := by omega
    simp [hslots, hne]

/-! ### The program counter -/

theorem toNat_zextAddr (nnn : BitVec 12) : (zextAddr nnn).toNat = nnn.toNat :=
  BitVec.toNat_setWidth_of_le (by decide)

theorem toNat_zextByte (b : Byte) : (zextByte b).toNat = b.toNat :=
  BitVec.toNat_setWidth_of_le (by decide)

/-- The sum of `BNNN` fits 16 bits (R144). -/
theorem toNat_zextAddr_add_zextByte (nnn : BitVec 12) (b : Byte) :
    (zextAddr nnn + zextByte b).toNat = nnn.toNat + b.toNat := by
  have := nnn.isLt
  have := b.isLt
  rw [BitVec.toNat_add, toNat_zextAddr, toNat_zextByte]
  omega

@[simp] theorem State.reg_advancePc (s : State) (r : Reg) : s.advancePc.reg r = s.reg r := rfl

theorem State.skipIf_advancePc_pc (s : State) (c : Bool) :
    (s.advancePc.skipIf c).pc = s.pc + if c then 4 else 2 := by
  cases c
  · rfl
  · simp [BitVec.add_assoc]

theorem State.isPressed_iff {s : State} {b : Byte} :
    s.isPressed b = true ↔ ∃ k : Fin 16, b.toNat = k.val ∧ s.key[k] = true := by
  unfold State.isPressed
  split
  case isTrue h =>
    constructor
    · exact fun hk => ⟨⟨b.toNat, h⟩, rfl, hk⟩
    · rintro ⟨k, hb, hk⟩
      simpa [hb] using hk
  case isFalse h =>
    simp only [reduceCtorEq, false_iff]
    rintro ⟨k, hb, -⟩
    exact h (hb ▸ k.isLt)

/-- A range-checked instruction that goes on has had its effect (R62, R302). -/
theorem State.checkRange_eq_of_running {s t k : State} {base len : Nat} (h : s.checkRange base len k = .next t)
    (hrun : t.run = .running) : t = k := by
  rcases State.checkRange_eq_next h with ⟨-, rfl⟩ | ⟨a, -, rfl⟩
  · rfl
  · cases hrun

/-- A fault rolls the advance of `pc` back (R302). -/
theorem exec_pc_of_fault {i : Instr} {s t : State} (hrun : s.run = .running) (h : exec i s.advancePc = .next t)
    (hfault : t.run ≠ .running) : t.pc = s.pc := by
  rcases (exec_writtenByOwners h).run with hkept | ⟨c, rfl⟩
  · exact absurd (hkept.trans hrun) hfault
  · rw [State.raiseInInstr_advancePc]
    rfl

/-- Settles O13: a fault rolls the advance back; otherwise the rule of each instruction gives `pc`. -/
theorem pcAfterEveryInstruction : Obligations.PcAfterEveryInstruction := by
  intro i s t hrun h
  change exec i s.advancePc = .next t at h
  refine ⟨exec_pc_of_fault hrun h, fun hnext => ?_⟩
  cases i
  case jp nnn => cases h; exact toNat_zextAddr nnn
  case call nnn =>
    rcases execCall_cases h with ⟨-, rfl⟩ | ⟨j, p, -, -, rfl⟩ <;> exact toNat_zextAddr nnn
  case jpV0 nnn => cases h; exact toNat_zextAddr_add_zextByte nnn _
  case ret =>
    obtain ⟨t', h', hpop, hempty, -⟩ := returnPopsOrReports s.advancePc
    obtain rfl : t = t' := by simpa [h] using h'
    exact ⟨fun h0 => (hempty h0).1, fun j hj => (hpop j hj).1⟩
  case ldVxK x =>
    rcases execLdVxK_cases h with ⟨k, hk, rfl⟩ | ⟨hnone, rfl⟩
    · have hdown : ∃ k : Fin 16, s.key[k] = true := ⟨k, (State.firstPressed_eq_some.1 hk).1⟩
      exact (if_pos hdown).symm
    · have hup : ¬ ∃ k : Fin 16, s.key[k] = true := by
        simpa using State.firstPressed_eq_none.1 hnone
      refine Eq.trans ?_ (if_neg hup).symm
      simp
  case seImm | sneImm | seReg | sneReg =>
    cases h
    rw [State.skipIf_advancePc_pc]
    simp
  case skp x =>
    cases h
    rw [State.skipIf_advancePc_pc]
    simp only [State.isPressed_iff]
    rfl
  case sknp x =>
    cases h
    rw [State.skipIf_advancePc_pc]
    simp only [Bool.not_eq_true', ← Bool.not_eq_true, State.isPressed_iff, ite_not]
    rfl
  case drw | ldB | storeRegs | loadRegs =>
    exact congrArg State.pc (State.checkRange_eq_of_running h hnext)
  case subReg | subnReg =>
    cases h
    exact State.subtract_pc _ _ _ _
  all_goals (cases h; rfl)

/-! ### Key skips -/

theorem OnlyPc.skipIf (s : State) (c : Bool) : OnlyPc s (s.skipIf c) := by
  unfold State.skipIf
  split <;> exact ⟨fun _ _ => rfl, fun _ => rfl, rfl⟩

/-- Settles O40: both skips ask for the level of the one key that the byte names. -/
theorem keySkips : Obligations.KeySkips := by
  intro x s
  refine ⟨_, _, rfl, rfl, .skipIf s _, .skipIf s _, fun k hk => ?_, fun hnone => ?_⟩
  · have hlevel : s.isPressed (s.reg x) = s.key[k] := by
      rw [s.isPressed_of_lt _ (hk ▸ k.isLt)]
      simp [hk]
    simp only [State.skipIf_pc, hlevel]
    cases s.key[k] <;> simp
  · simp [State.isPressed_of_ge s _ hnone]

/-! ### A step with and without a cycle -/

/-- `r` is `s` with other values of the clock, the accumulators and the loop's place, and nothing else changed. -/
def ClockMoved (s r : State) : Prop := ∃ n cf a b c p,
  r = { s with
    now := n, clockFeed := cf, lastInstructionTick := a, lastRenderTick := b, lastTimerTick := c, phase := p }

theorem ClockMoved.refl (s : State) : ClockMoved s s := ⟨_, _, _, _, _, _, rfl⟩

theorem ClockMoved.readNow {s r : State} (h : ClockMoved s r) : ClockMoved s r.readNow := by
  obtain ⟨n, cf, a, b, c, p, rfl⟩ := h
  rw [State.readNow_eq]
  exact ⟨_, _, _, _, _, _, rfl⟩

theorem IterationStart.clockMoved {s s₀ : State} (h : IterationStart s s₀) : ClockMoved s s₀ := by
  obtain ⟨n, cf, a, b, c, p, -, rfl⟩ := h.eq
  exact ⟨_, _, _, _, _, _, rfl⟩

theorem ClockMoved.run {s r : State} (h : ClockMoved s r) : r.run = s.run := by
  obtain ⟨n, cf, a, b, c, p, rfl⟩ := h
  rfl

theorem ClockMoved.frames {s r : State} (h : ClockMoved s r) : r.frames = s.frames := by
  obtain ⟨n, cf, a, b, c, p, rfl⟩ := h
  rfl

/-- What only an instruction cycle or the host changes. -/
structure KeptOutsideCycles (s t : State) : Prop where
  v : t.v = s.v
  i : t.i = s.i
  pc : t.pc = s.pc
  sp : t.sp = s.sp
  stack : t.stack = s.stack
  disp : t.disp = s.disp
  mem : t.mem = s.mem
  inqClosed : t.inqClosed = s.inqClosed
  reports : t.reports = s.reports
  cfg : t.cfg = s.cfg
  draws : t.draws = s.draws
  loaded : t.loaded = s.loaded

theorem ClockMoved.kept {s r : State} (h : ClockMoved s r) : KeptOutsideCycles s r := by
  obtain ⟨n, cf, a, b, c, p, rfl⟩ := h
  constructor <;> rfl

/-- A step runs one cycle, from its state with at most the clock moved (a cycle reads nothing of it, R120), or changes
nothing that is a cycle's to change. -/
theorem step_cycle_or_kept {s t : State} (h : step s = .next t) :
    (∃ r u, ClockMoved s r ∧ instructionCycle r = .next u ∧ t = u.afterDue) ∨ KeptOutsideCycles s t := by
  obtain ⟨-, hcase⟩ := step_cases h
  cases hcase with
  | cycle u _ _ hu ht => exact .inl ⟨s, u, .refl s, hu, ht⟩
  | frame _ _ _ ht => subst ht; exact .inr (by constructor <;> rfl)
  | tick _ _ ht => subst ht; exact .inr (by constructor <;> rfl)
  | deliver s₀ e rest hs _ ht =>
    subst ht
    obtain ⟨n, cf, a, b, c, p, rfl⟩ := hs.clockMoved
    rw [State.readNow_eq]
    exact .inr (by constructor <;> rfl)
  | stop s₀ hs _ _ ht =>
    subst ht
    obtain ⟨n, cf, a, b, c, p, rfl⟩ := hs.clockMoved
    exact .inr (by constructor <;> rfl)
  | start s₀ u hs _ _ _ hu ht => exact .inl ⟨s₀.readNow, u, hs.clockMoved.readNow, hu, ht⟩
  | idle s₀ hs _ _ _ ht => exact .inr (ht ▸ hs.clockMoved.readNow.kept)

/-! ### The processor's invariant -/

/-- The invariant speaks of four fields only. -/
theorem ProcInv.congr {s t : State} (h : ProcInv s) (hpc : t.pc = s.pc) (hstack : t.stack = s.stack)
    (hcfg : t.cfg = s.cfg) (hmem : t.mem = s.mem) : ProcInv t := by
  unfold ProcInv
  rwa [hpc, hstack, hcfg, hmem]

/-- From a word inside memory no instruction leaves `pc` above 0x10FE, which `BNNN` reaches (R28, R144). -/
theorem exec_pc_le {i : Instr} {s t : State} (hrun : s.run = .running) (hpc : s.pc.toNat + 2 ≤ 4096)
    (hstack : ∀ j : Fin 16, (s.stack[j]).toNat ≤ 0x1000) (h : exec i s.advancePc = .next t) :
    t.pc.toNat ≤ 0x10FE := by
  have h2 : (s.pc + 2).toNat = s.pc.toNat + 2 := BitVec.toNat_add_of_lt (show s.pc.toNat + 2 < 65536 by omega)
  have h4 : (s.pc + 4).toNat = s.pc.toNat + 4 := BitVec.toNat_add_of_lt (show s.pc.toNat + 4 < 65536 by omega)
  obtain ⟨hfaulted, hnext⟩ := pcAfterEveryInstruction i s t hrun h
  by_cases ht : t.run = .running
  · have hval := hnext ht
    cases i
    case jp nnn | call nnn =>
      have := nnn.isLt
      simp only at hval
      omega
    case jpV0 nnn =>
      have := nnn.isLt
      have := (s.reg 0).isLt
      simp only at hval
      omega
    case ret =>
      obtain ⟨hempty, hpop⟩ := hval
      have := s.sp_le
      by_cases hsp : s.sp.val = 0
      · rw [hempty (Fin.ext hsp)]
        omega
      · rw [hpop ⟨s.sp.val - 1, by omega⟩ (by simp; omega)]
        exact (hstack _).trans (by decide)
    case seImm | sneImm | seReg | sneReg | skp | sknp | ldVxK =>
      simp only at hval
      rw [hval]
      split <;> omega
    all_goals
      simp only at hval
      rw [hval]
      omega
  · rw [hfaulted ht]
    omega

/-- No instruction puts more than 0x1000 in a slot: a call stores the address of the instruction after it (R123). -/
theorem exec_stack_le {i : Instr} {s t : State} (hpc : s.pc.toNat ≤ 0x1000)
    (hstack : ∀ j : Fin 16, (s.stack[j]).toNat ≤ 0x1000) (h : exec i s = .next t) (j : Fin 16) :
    (t.stack[j]).toNat ≤ 0x1000 := by
  rcases (exec_writtenByOwners h).stack with hkept | ⟨nnn, rfl⟩
  · rw [hkept]
    exact hstack j
  · rcases execCall_cases h with ⟨-, rfl⟩ | ⟨k, p, -, -, rfl⟩
    · exact hstack j
    · simp only [State.setPc_stack, Fin.getElem_fin, Vector.getElem_set]
      split
      · exact hpc
      · exact hstack j

/-- An instruction stores inside memory or not at all (R62). -/
theorem exec_mem_wf {i : Instr} {s t : State} (hmem : Memory.wf s.cfg.fontTable s.mem) (h : exec i s = .next t) :
    Memory.wf t.cfg.fontTable t.mem := by
  rw [(exec_untouched h).cfg]
  rcases (exec_writtenByOwners h).mem with hkept | ⟨bs, -, hrange, hstored⟩
  · rwa [hkept]
  · rw [hstored]
    rcases rangeFault_eq_none.1 hrange with hnil | hfits
    · rw [List.length_eq_zero_iff.1 hnil]
      exact hmem
    · exact Memory.wf_writeBytes bs hmem hfits

theorem ProcInv.instructionCycle {s t : State} (h : ProcInv s) (hrun : s.run = .running)
    (hc : instructionCycle s = .next t) : ProcInv t := by
  rcases instructionCycle_cases hc with ⟨a, -, rfl⟩ | ⟨-, -, rfl⟩ | ⟨hfetch, i, u, -, hx, rfl⟩
  · exact h
  · exact h
  · obtain ⟨-, hstack, hmem⟩ := h
    have hpc : s.pc.toNat + 2 ≤ 4096 := (rangeFault_eq_none.1 hfetch).resolve_left (by decide)
    have hadvanced : s.advancePc.pc.toNat ≤ 0x1000 :=
      (BitVec.toNat_add_of_lt (show s.pc.toNat + 2 < 65536 by omega)).trans_le hpc
    have hu : ProcInv u :=
      ⟨exec_pc_le hrun hpc hstack hx, exec_stack_le hadvanced hstack hx, exec_mem_wf (s := s.advancePc) hmem hx⟩
    exact hu.congr (State.endCycle_pc u) (State.endCycle_stack u) (State.endCycle_cfg u) (State.endCycle_mem u)

theorem KeptOutsideCycles.procInv {s t : State} (hk : KeptOutsideCycles s t) (h : ProcInv s) : ProcInv t :=
  h.congr hk.pc hk.stack hk.cfg hk.mem

/-- Settles O54: a step runs one cycle, which keeps the invariant, or touches none of its fields. -/
theorem processorInvariantKept : Obligations.ProcessorInvariantKept := by
  intro s t h hstep
  rcases step_cycle_or_kept hstep with ⟨r, u, hr, hu, rfl⟩ | hkept
  · have hrun : r.run = .running := hr.run.trans (step_cases hstep).1
    have hcycle : ProcInv u := (hr.kept.procInv h).instructionCycle hrun hu
    exact hcycle
  · exact hkept.procInv h

/-! ### The scheduler's and the host's fields -/

/-- `s` with the accumulators, the clock, the place of the loop, the feed, the frames and the load mark of `u`. -/
def State.withSchedulerOf (s u : State) : State :=
  { s with
    lastInstructionTick := u.lastInstructionTick, lastRenderTick := u.lastRenderTick, lastTimerTick := u.lastTimerTick
    now := u.now, clockFeed := u.clockFeed, phase := u.phase
    inq := u.inq, inqClosed := u.inqClosed, frames := u.frames, loaded := u.loaded }

theorem State.subtract_withSchedulerOf (s u : State) (x : Reg) (a b : Byte) :
    (s.withSchedulerOf u).subtract x a b = (s.subtract x a b).withSchedulerOf u := by
  unfold State.subtract
  split <;> rfl

theorem State.skipIf_withSchedulerOf (s u : State) (c : Bool) :
    (s.withSchedulerOf u).skipIf c = (s.skipIf c).withSchedulerOf u := by
  unfold State.skipIf
  split <;> rfl

theorem State.checkRange_withSchedulerOf {s t k : State} {base len : Nat} (u : State)
    (h : s.checkRange base len k = .next t) :
    (s.withSchedulerOf u).checkRange base len (k.withSchedulerOf u) = .next (t.withSchedulerOf u) := by
  rcases State.checkRange_eq_next h with ⟨hr, rfl⟩ | ⟨a, hr, rfl⟩ <;> rw [State.checkRange, hr]
  rfl

/-- An instruction does the same whatever the scheduler's and the host's fields hold, and leaves them alone (R120). -/
theorem exec_withSchedulerOf {i : Instr} {s t : State} (u : State) (h : exec i s = .next t) :
    exec i (s.withSchedulerOf u) = .next (t.withSchedulerOf u) := by
  cases i
  case ret =>
    rcases execRet_cases h with ⟨hsp, rfl⟩ | ⟨j, p, hsp, hp, rfl⟩
    · exact exec_ret_empty (s := s.withSchedulerOf u) hsp
    · exact exec_ret_pop (s := s.withSchedulerOf u) hsp hp
  case call =>
    rcases execCall_cases h with ⟨hsp, rfl⟩ | ⟨j, p, hsp, hp, rfl⟩
    · exact exec_call_full (s := s.withSchedulerOf u) _ hsp
    · exact exec_call_push (s := s.withSchedulerOf u) _ hsp hp
  case ldVxK =>
    rcases execLdVxK_cases h with ⟨k, hk, rfl⟩ | ⟨hnone, rfl⟩
    · rw [exec, execLdVxK, show (s.withSchedulerOf u).firstPressed = _ from hk]
      rfl
    · rw [exec, execLdVxK, show (s.withSchedulerOf u).firstPressed = _ from hnone]
      rfl
  case drw | ldB | storeRegs | loadRegs => exact State.checkRange_withSchedulerOf u h
  case seImm | sneImm | seReg | sneReg | skp | sknp =>
    cases h
    exact congrArg Host.Outcome.next (State.skipIf_withSchedulerOf s u _)
  case subReg | subnReg =>
    cases h
    exact congrArg Host.Outcome.next (State.subtract_withSchedulerOf s u _ _ _)
  all_goals (cases h; rfl)

theorem ClockMoved.eq_withSchedulerOf {s r : State} (h : ClockMoved s r) : r = s.withSchedulerOf r := by
  obtain ⟨n, cf, a, b, c, p, rfl⟩ := h
  rfl

/-! ### The display -/

/-- The display an instruction leaves does not depend on the clock. -/
theorem exec_disp_of_clockMoved {i : Instr} {s r u : State} (hr : ClockMoved s r) (h : exec i r.advancePc = .next u) :
    ∃ u', exec i s.advancePc = .next u' ∧ u'.disp = u.disp := by
  obtain ⟨u', hu'⟩ := exec_answers_next i s.advancePc
  have hmoved : exec i r.advancePc = .next (u'.withSchedulerOf r) := by
    rw [hr.eq_withSchedulerOf]
    exact exec_withSchedulerOf r hu'
  rw [h] at hmoved
  cases hmoved
  exact ⟨u', hu', rfl⟩

/-- Settles O39: only a step with a cycle changes the display, and the clock it may have read first is nothing to the
instruction. -/
theorem displayChangesByWholeInstructions : Obligations.DisplayChangesByWholeInstructions := by
  intro s t hstep hchanged
  rcases step_cycle_or_kept hstep with ⟨r, u, hr, hu, rfl⟩ | hkept
  · have hdisp : u.disp ≠ r.disp := fun heq => hchanged (heq.trans hr.kept.disp)
    rcases instructionCycle_cases hu with ⟨a, -, rfl⟩ | ⟨-, -, rfl⟩ | ⟨-, i, w, hdecode, hx, rfl⟩
    · exact absurd rfl hdisp
    · exact absurd rfl hdisp
    · obtain ⟨w', hx', hsame⟩ := exec_disp_of_clockMoved hr hx
      rw [State.endCycle_disp] at hdisp
      refine ⟨i, w', ?_, hx', (State.endCycle_disp w).trans hsame.symm,
        (exec_writtenByOwners hx).disp.resolve_left hdisp⟩
      obtain ⟨n, cf, a, b, c, p, rfl⟩ := hr
      exact hdecode
  · exact absurd hkept.disp hchanged

/-! ### What a step does -/

theorem State.dueCycle_answers_next (s : State) : ∃ t, s.dueCycle = .next t := by
  obtain ⟨u, hu⟩ := instructionCycle_answers_next s
  exact ⟨_, State.dueCycle_eq_next.2 ⟨u, hu, rfl⟩⟩

theorem State.startIteration_answers_next (s : State) : ∃ t, s.startIteration = .next t := by
  unfold State.startIteration
  split
  · exact ⟨_, rfl⟩
  · split
    · exact ⟨_, rfl⟩
    · split
      · exact s.readNow.dueCycle_answers_next
      · exact ⟨_, rfl⟩

theorem State.ticksPhase_answers_next (s : State) : ∃ t, s.ticksPhase = .next t := by
  unfold State.ticksPhase
  split
  · exact ⟨_, rfl⟩
  · exact s.startIteration_answers_next

theorem State.cyclesPhase_answers_next (s : State) : ∃ t, s.cyclesPhase = .next t := by
  unfold State.cyclesPhase
  split
  · exact s.dueCycle_answers_next
  · split
    · exact ⟨_, rfl⟩
    · exact s.ticksPhase_answers_next

/-- Settles O12: each phase of the loop answers a next state. -/
theorem runningCoreAlwaysSteps : Obligations.RunningCoreAlwaysSteps := by
  intro s hrun hload
  unfold step schedulerStep
  rw [hrun]
  cases hphase : s.phase with
  | boot =>
    simp only [State.bootPhase, hload hphase, if_true]
    exact s.startLoop.startIteration_answers_next
  | cycles => exact s.cyclesPhase_answers_next
  | ticks => exact s.ticksPhase_answers_next

theorem step_of_frameDue {s : State} (hrun : s.run = .running) (hp : s.phase = .cycles) (hcycle : s.instrDue = false)
    (hdue : s.frameDue = true) : step s = .next s.signalFrame := by
  simp [step, schedulerStep, hrun, hp, State.cyclesPhase, hcycle, hdue]

theorem step_of_timerDue {s : State} (hrun : s.run = .running)
    (hp : s.phase = .ticks ∨ s.phase = .cycles ∧ s.instrDue = false ∧ s.frameDue = false)
    (hdue : s.timerDue = true) : step s = .next s.dueTick := by
  rcases hp with hp | ⟨hp, hcycle, hframe⟩
  · simp [step, schedulerStep, hrun, hp, State.ticksPhase, hdue]
  · simp [step, schedulerStep, hrun, hp, State.cyclesPhase, State.ticksPhase, hcycle, hframe, hdue]

theorem State.frameDue_eq_false_iff {s : State} :
    s.frameDue = false ↔ (s.drawPending = true → s.now < s.lastRenderTick + s.cfg.renderInterval) := by
  simp [State.frameDue]

/-- Settles O43: the step is `dueTick`. -/
theorem dueTickCountsBothTimersDown : Obligations.DueTickCountsBothTimersDown := by
  intro s hrun hplace hdue
  have hstep : step s = .next s.dueTick := by
    refine step_of_timerDue hrun (hplace.imp_right ?_) (State.timerDue_iff.2 hdue)
    rintro ⟨hp, hcycle, hframe⟩
    exact ⟨hp, State.instrDue_eq_false_iff.2 hcycle, State.frameDue_eq_false_iff.2 hframe⟩
  exact ⟨s.dueTick, hstep, countDown_toNat s.dt, countDown_toNat s.st, rfl⟩

/-- A step adds at most one frame-ready signal, its reading, and that only to a pending draw (R258). -/
theorem step_frames {s t : State} (h : step s = .next t) :
    t.frames = s.frames ∨ s.drawPending = true ∧ t.frames = s.frames ++ [s.now] := by
  obtain ⟨-, hcase⟩ := step_cases h
  cases hcase with
  | cycle u _ _ hu ht => exact .inl (ht ▸ (instructionCycle_untouched hu).frames)
  | frame _ _ hdue ht => exact .inr ⟨(State.frameDue_iff.1 hdue).1, ht ▸ rfl⟩
  | tick _ _ ht => exact .inl (ht ▸ rfl)
  | deliver s₀ e rest hs _ ht =>
    subst ht
    obtain ⟨n, cf, a, b, c, p, rfl⟩ := hs.clockMoved
    rw [State.readNow_eq]
    exact .inl rfl
  | stop s₀ hs _ _ ht => exact .inl (ht ▸ hs.clockMoved.frames)
  | start s₀ u hs _ _ _ hu ht =>
    exact .inl (ht ▸ (instructionCycle_untouched hu).frames.trans hs.clockMoved.readNow.frames)
  | idle s₀ hs _ _ _ ht => exact .inl (ht ▸ hs.clockMoved.readNow.frames)

/-- Settles O46: the step is `signalFrame`; every other step leaves `FRAMES` alone. -/
theorem frameSignalFollowsADraw : Obligations.FrameSignalFollowsADraw := by
  refine ⟨fun s hrun hp hcycle hdraw hdue => ?_, fun s t hstep hnone => ?_⟩
  · exact step_of_frameDue hrun hp (State.instrDue_eq_false_iff.2 hcycle) (State.frameDue_iff.2 ⟨hdraw, hdue⟩)
  · refine (step_frames hstep).resolve_right ?_
    rintro ⟨hdraw, -⟩
    simp [hnone] at hdraw

/-- A cycle does not stop the core: it goes on or faults (R42, R120). -/
theorem instructionCycle_run_ne_stopped {s t : State} (hrun : s.run = .running) (h : instructionCycle s = .next t) :
    t.run ≠ .stopped := by
  rcases (instructionCycle_untouched h).run with hkept | ⟨c, hfault⟩
  · simp [hkept, hrun]
  · simp [hfault]

/-- Only the step that finds the feed empty and closed stops the core (R256, R274). -/
theorem step_stopped {s t : State} (h : step s = .next t) (hstop : t.run = .stopped) :
    s.inqClosed = true ∧ s.inq = [] ∧ t.inq = [] := by
  obtain ⟨hrun, hcase⟩ := step_cases h
  have hgoeson : t.run ≠ s.run := by simp [hstop, hrun]
  cases hcase with
  | cycle u _ _ hu ht =>
    subst ht
    exact absurd hstop (instructionCycle_run_ne_stopped (t := u) hrun hu)
  | frame _ _ _ ht => exact absurd (ht ▸ rfl) hgoeson
  | tick _ _ ht => exact absurd (ht ▸ rfl) hgoeson
  | deliver s₀ e rest hs _ ht =>
    subst ht
    refine absurd ?_ hgoeson
    rw [State.readNow_eq]
    exact hs.clockMoved.run
  | stop s₀ hs hempty hclosed ht =>
    subst ht
    obtain ⟨n, cf, a, b, c, p, rfl⟩ := hs.clockMoved
    exact ⟨hclosed, hempty, hempty⟩
  | start s₀ u hs _ _ _ hu ht =>
    subst ht
    exact absurd hstop (instructionCycle_run_ne_stopped (t := u) (hs.clockMoved.readNow.run.trans hrun) hu)
  | idle s₀ hs _ _ _ ht => exact absurd (ht ▸ hs.clockMoved.readNow.run) hgoeson

/-- What never goes back, in every step (R41, R43, R273). -/
theorem step_outputs {s t : State} (h : step s = .next t) :
    t.inqClosed = s.inqClosed ∧ s.reports <+: t.reports ∧ t.cfg = s.cfg := by
  rcases step_cycle_or_kept h with ⟨r, u, hr, hu, rfl⟩ | hkept
  · have hcycle := instructionCycle_untouched hu
    exact ⟨hcycle.inqClosed.trans hr.kept.inqClosed, hr.kept.reports ▸ hcycle.reports,
      hcycle.cfg.trans hr.kept.cfg⟩
  · exact ⟨hkept.inqClosed, by rw [hkept.reports], hkept.cfg⟩

/-- Settles O57 from what a step does to the outputs, to `FRAMES`, and when it stops. -/
theorem outputsOnlyGrow : Obligations.OutputsOnlyGrow := by
  intro s t hstep
  obtain ⟨hrun, -⟩ := step_cases hstep
  obtain ⟨hclosed, hreports, hcfg⟩ := step_outputs hstep
  obtain ⟨hgrow, hone⟩ : s.frames <+: t.frames ∧ t.frames.length ≤ s.frames.length + 1 := by
    rcases step_frames hstep with hsame | ⟨-, hsignal⟩
    · simp [hsame]
    · simp [hsignal]
  exact ⟨hrun, hclosed.trans, hreports, hgrow, hone, hcfg, step_stopped hstep⟩

/-! ### The state after reset -/

theorem procInv_reset : ProcInv State.reset :=
  ⟨by decide, by decide, Memory.wf_nil⟩

theorem schedInv_reset : SchedInv State.reset :=
  ⟨by decide, fun hp => absurd rfl hp, le_rfl, le_rfl, le_rfl, nofun⟩

/-- Settles O55: memory is empty, no accumulator is ahead of the reading 0, and the default settings are legal. -/
theorem invariantsHoldAtReset : Obligations.InvariantsHoldAtReset := ⟨procInv_reset, schedInv_reset⟩

/-- The font stands at 0x050 to 0x09F (R46, R69). -/
theorem resetImage_font (font : Vector Byte Config.fontLen) (k : Fin 80) :
    resetImage font (0x50 + k.val) = font[k] := by
  rw [resetImage, dif_pos ⟨Nat.le_add_right _ _, by simp⟩]
  simp

/-- Every byte outside the font is 0 after reset (R46). -/
theorem resetImage_outside (font : Vector Byte Config.fontLen) {a : Nat} (h : ¬ (0x50 ≤ a ∧ a ≤ 0x9F)) :
    resetImage font a = 0 := by
  rw [resetImage, dif_neg]
  rintro ⟨hbase, hlen⟩
  simp at hbase hlen
  omega

/-- Settles O58: memory lists nothing after reset, so it reads as the reset image. -/
theorem resetLeavesTheStatedValues : Obligations.ResetLeavesTheStatedValues := by
  refine ⟨by decide, rfl, rfl, rfl, by decide, rfl, rfl, by decide, cellAt_clear, rfl,
    fun c k => resetImage_font c.fontTable k, fun a ha => resetImage_outside _ ha, rfl, rfl, rfl, rfl, rfl, rfl, rfl⟩

/-! ### The moves of the host -/

theorem HostMove.invariants {s t : State} (h : HostMove s t) (hs : ProcInv s ∧ SchedInv s) :
    ProcInv t ∧ SchedInv t := by
  obtain ⟨q, c, cf, rfl⟩ := h.eq
  exact hs

/-- When a load succeeds, and what it does (R333). -/
theorem State.load_eq_loaded {s t : State} {bytes : List Byte} {n : Nat} (h : s.load bytes = .loaded n t) :
    s.phase = .boot ∧ bytes.length ≤ Config.romMax ∧
      t = { s.storeBytes Config.loadAddr bytes with loaded := true } := by
  unfold State.load at h
  split at h
  case isTrue hcall =>
    obtain ⟨hboot, -⟩ := hcall
    split at h
    case isTrue => cases h
    case isFalse hfits =>
      cases h
      exact ⟨hboot, Nat.le_of_not_lt hfits, rfl⟩
  case isFalse => cases h

/-- When the rates can be set, and what that does (R273). -/
theorem State.configure_eq_configured {s t : State} {a b : Rate} (h : s.configure a b = .configured t) :
    s.phase = .boot ∧ a.positive ∧ b.positive ∧
      t = { s with cfg := { s.cfg with instrHz := a, renderHz := b } } := by
  unfold State.configure at h
  split at h
  case isTrue hcall =>
    cases h
    obtain ⟨hboot, ha, hb⟩ := hcall
    exact ⟨hboot, ha, hb, rfl⟩
  case isFalse => cases h

theorem load_invariants {s t : State} {bytes : List Byte} {n : Nat} (h : s.load bytes = .loaded n t)
    (hs : ProcInv s ∧ SchedInv s) : ProcInv t ∧ SchedInv t := by
  obtain ⟨-, hlen, rfl⟩ := State.load_eq_loaded h
  obtain ⟨⟨hpc, hstack, hmem⟩, hcfg, -, hticks⟩ := hs
  refine ⟨⟨hpc, hstack, Memory.wf_writeBytes bytes hmem ?_⟩, hcfg, fun _ => rfl, hticks⟩
  simp at hlen ⊢
  omega

theorem configure_invariants {s t : State} {a b : Rate} (h : s.configure a b = .configured t)
    (hs : ProcInv s ∧ SchedInv s) : ProcInv t ∧ SchedInv t := by
  obtain ⟨hboot, ha, hb, rfl⟩ := State.configure_eq_configured h
  obtain ⟨hproc, ⟨-, -, htimer, hres⟩, hload, hinstr, hrender, htick, -⟩ := hs
  exact ⟨hproc, ⟨ha, hb, htimer, hres⟩, hload, hinstr, hrender, htick, fun hp => by simp [hboot] at hp⟩

/-- Settles O56, by induction on how the state is reached. -/
theorem reachableStatesKeepInvariants : Obligations.ReachableStatesKeepInvariants := by
  intro s hs
  induction hs with
  | reset => exact invariantsHoldAtReset
  | core _ hstep ih =>
    obtain ⟨hproc, hsched⟩ := ih
    exact ⟨processorInvariantKept _ _ hproc hstep, schedulerInvariantKept _ _ hsched hstep⟩
  | host _ hmove ih => exact hmove.invariants ih
  | load bytes _ hload ih => exact load_invariants hload ih
  | configure a b _ hconf ih => exact configure_invariants hconf ih

end Sys2Proof.Machine
end

section
/-! PROOFS of the statements of spec/20_memory.md: what a store leaves alone, what a read or a fetch after it sees, and
the access that memory does not have room for. -/

namespace Sys2Proof.Machine

/-! ### Reads after a store -/

/-- A byte the store did not reach (R67). -/
theorem State.readByte_storeBytes_of_outside {s : State} (hmem : Memory.wf s.cfg.fontTable s.mem) {a k : Nat}
    {bs : List Byte} (hk : ¬ (a ≤ k ∧ k < a + bs.length)) : (s.storeBytes a bs).readByte k = s.readByte k := by
  rw [s.readByte_storeBytes hmem.left, if_neg (by omega)]

/-- Byte `j` of those stored (R73). -/
theorem State.readByte_storeBytes_add {s : State} (hmem : Memory.wf s.cfg.fontTable s.mem) (a : Nat) {j : Nat}
    {bs : List Byte} (hj : j < bs.length) : (s.storeBytes a bs).readByte (a + j) = bs.getD j 0 := by
  rw [s.readByte_storeBytes hmem.left, if_pos (by omega), Nat.add_sub_cancel_left]

/-- A fetch of two bytes just stored at `pc` (R63, R77). -/
theorem State.fetchWord_storeBytes {s : State} (hmem : Memory.wf s.cfg.fontTable s.mem) (hi lo : Byte) :
    (s.storeBytes s.pc.toNat [hi, lo]).fetchWord = wordOfBytes hi lo :=
  congrArg₂ wordOfBytes (s.readByte_storeBytes_add hmem _ (j := 0) (bs := [hi, lo]) (by simp))
    (s.readByte_storeBytes_add hmem _ (j := 1) (bs := [hi, lo]) (by simp))

/-- Settles O15: an instruction keeps the list of cells, or stores `storeLen` bytes from `I` on. -/
theorem onlyStoresChangeMemory : Obligations.OnlyStoresChangeMemory := by
  intro i s t a hmem h ha
  have hcfg : t.cfg = s.cfg := (exec_untouched h).cfg
  rcases (exec_writtenByOwners h).mem with hkept | ⟨bs, hlen, -, hstored⟩
  · exact State.readByte_congr hkept hcfg a
  · rw [← hlen] at ha
    calc t.readByte a
      _ = (s.storeBytes s.base bs).readByte a := State.readByte_congr hstored hcfg a
      _ = s.readByte a := State.readByte_storeBytes_of_outside hmem ha

/-! ### Accesses that do not fit -/

/-- An instruction that reaches memory checks its whole range before it does anything (R190). -/
theorem exec_eq_checkRange {i : Instr} (hlen : accessLen i ≠ 0) (s : State) :
    ∃ k, exec i s = s.checkRange s.base (accessLen i) k := by
  cases i
  case drw | ldB | storeRegs | loadRegs => exact ⟨_, rfl⟩
  all_goals exact absurd rfl hlen

/-- Settles O17: the range check of `exec_eq_checkRange` fails. -/
theorem outOfRangeInstructionTraps : Obligations.OutOfRangeInstructionTraps := by
  intro i s hlen hout
  obtain ⟨k, hk⟩ := exec_eq_checkRange hlen s
  rw [hk]
  exact State.checkRange_fault k hlen hout

/-! ### Transfers that fit -/

/-- `FX33` in range (R194). -/
theorem exec_ldB_in_range {x : Reg} {s : State} (hfits : s.i.toNat + 3 ≤ 4096) :
    exec (.ldB x) s = .next (s.storeBytes s.base (decimalDigits (s.reg x))) :=
  State.checkRange_ok _ hfits

/-- `FX55` in range (R195). -/
theorem exec_storeRegs_in_range {x : Reg} {s : State} (hfits : s.i.toNat + x.val + 1 ≤ 4096) :
    exec (.storeRegs x) s = .next ((s.storeBytes s.base (s.regsUpTo x)).setI (s.advanceI x)) :=
  State.checkRange_ok _ hfits

/-- `FX65` in range (R196). -/
theorem exec_loadRegs_in_range {x : Reg} {s : State} (hfits : s.i.toNat + x.val + 1 ≤ 4096) :
    exec (.loadRegs x) s = .next ((s.setRegsFrom (s.readBytes s.base (x.val + 1))).setI (s.advanceI x)) :=
  State.checkRange_ok _ hfits

/-- What `FX55` in range leaves in memory (R195). -/
theorem readByte_of_exec_storeRegs {x : Reg} {s t : State} (hmem : Memory.wf s.cfg.fontTable s.mem)
    (hfits : s.i.toNat + x.val + 1 ≤ 4096) (h : exec (.storeRegs x) s = .next t) {r : Reg} (hr : r ≤ x) :
    t.readByte (s.i.toNat + r.val) = s.reg r := by
  have hlen : r.val < (s.regsUpTo x).length := by
    rw [State.length_regsUpTo]
    exact Nat.lt_succ_of_le hr
  rw [exec_storeRegs_in_range hfits] at h
  cases h
  exact (State.readByte_storeBytes_add hmem _ hlen).trans (s.getD_regsUpTo x r hr)

/-- What `FX65` in range leaves in a register it loads (R196). -/
theorem State.reg_setRegsFrom_readBytes (s : State) (a : Nat) {n : Nat} {r : Reg} (hr : r.val < n) :
    (s.setRegsFrom (s.readBytes a n)).reg r = s.readByte (a + r.val) := by
  have hlen : r.val < (s.readBytes a n).length := by rwa [State.length_readBytes]
  rw [State.reg_setRegsFrom, if_pos hlen, List.getD_eq_getElem _ _ hlen, State.getElem_readBytes]

/-! ### Decimal digits -/

/-- `FX33` writes three decimal digits, hundreds first, whose value is the byte (R194). -/
theorem decimalDigits_value (b : Byte) : ∃ h t u : Byte, decimalDigits b = [h, t, u] ∧
    h.toNat ≤ 2 ∧ t.toNat ≤ 9 ∧ u.toNat ≤ 9 ∧ 100 * h.toNat + 10 * t.toNat + u.toNat = b.toNat := by
  have := b.isLt
  refine ⟨_, _, _, rfl, ?_⟩
  simp only [BitVec.toNat_ofNat]
  omega

/-- Settles O31: the three bytes stored are the digits of `decimalDigits_value`. -/
theorem decimalDigitsAreStored : Obligations.DecimalDigitsAreStored := by
  intro x s hmem hfits
  obtain ⟨h, t, u, hdigits, hh, ht, hu, hvalue⟩ := decimalDigits_value (s.reg x)
  have hread (j : Nat) (hj : j < 3) : (s.storeBytes s.base [h, t, u]).readByte (s.i.toNat + j) = [h, t, u].getD j 0 :=
    State.readByte_storeBytes_add hmem s.base hj
  have hhundreds : (s.storeBytes s.base [h, t, u]).readByte s.i.toNat = h := hread 0 (by decide)
  have htens : (s.storeBytes s.base [h, t, u]).readByte (s.i.toNat + 1) = t := hread 1 (by decide)
  have hunits : (s.storeBytes s.base [h, t, u]).readByte (s.i.toNat + 2) = u := hread 2 (by decide)
  refine ⟨_, exec_ldB_in_range hfits, ?_⟩
  rw [hdigits, hhundreds, htens, hunits]
  exact ⟨hh, ht, hu, hvalue, fun _ hk => State.readByte_storeBytes_of_outside hmem hk, fun _ _ => rfl, rfl⟩

/-! ### Stored registers, loaded back and fetched -/

/-- Settles O34: the bytes that the load reads are those the store wrote. -/
theorem storedRegistersLoadBack : Obligations.StoredRegistersLoadBack := by
  intro x s a b hmem hfits hstore hbmem hbcfg hbi
  refine ⟨_, exec_loadRegs_in_range (hbi ▸ hfits), fun r hr => ?_, ?_⟩
  · have hloaded : r.val < x.val + 1 := Nat.lt_succ_of_le hr
    calc ((b.setRegsFrom (b.readBytes b.base (x.val + 1))).setI (b.advanceI x)).reg r
      _ = b.readByte (b.i.toNat + r.val) := b.reg_setRegsFrom_readBytes b.base hloaded
      _ = a.readByte (s.i.toNat + r.val) := by rw [State.readByte_congr hbmem hbcfg, hbi]
      _ = s.reg r := readByte_of_exec_storeRegs hmem hfits hstore hr
  · rw [exec_storeRegs_in_range hfits] at hstore
    cases hstore
    simp [State.advanceI, hbi]

/-- Settles O35: both bytes of the fetch are bytes the store wrote. -/
theorem fetchSeesStoredBytes : Obligations.FetchSeesStoredBytes := by
  intro x r s t hmem hfits hr hstore q hq
  have hqx : q ≤ x := Fin.le_def.2 (hq.trans_le hr)
  have hlt : r.val < x.val := hr
  have hpc : (s.i + BitVec.ofNat 16 r.val).toNat = s.i.toNat + r.val := by
    rw [BitVec.toNat_add, BitVec.toNat_ofNat]
    omega
  calc ({ t with pc := s.i + BitVec.ofNat 16 r.val } : State).fetchWord
    _ = wordOfBytes (t.readByte (s.i.toNat + r.val)) (t.readByte (s.i.toNat + r.val + 1)) := by rw [← hpc]; rfl
    _ = wordOfBytes (t.readByte (s.i.toNat + r.val)) (t.readByte (s.i.toNat + q.val)) := by rw [hq, Nat.add_assoc]
    _ = wordOfBytes (s.reg r) (s.reg q) := by
      rw [readByte_of_exec_storeRegs hmem hfits hstore hr.le, readByte_of_exec_storeRegs hmem hfits hstore hqx]

/-! ### A word placed at `pc` -/

/-- The decoder reads the 16 bits of a table row as the word itself. -/
theorem decodeTableWord_eq_some {w : Nat} {i : Instr} (hw : w < 2 ^ 16) (h : decodeTableWord 16 w = some i) :
    decodeWord (BitVec.ofNat 16 w) = .ok i := by
  rw [decodeTableWord, Nat.mod_eq_of_lt hw] at h
  simp only [decode, wordOfBytes_high_low] at h
  cases hd : decodeWord (BitVec.ofNat 16 w) with
  | ok j =>
    rw [hd] at h
    cases h
    rfl
  | error e =>
    rw [hd] at h
    cases h

/-- The word placed where there is room for it is the one fetched (R63). -/
theorem State.fetchWord_withFetchWord {s : State} {w : Nat} (hmem : Memory.wf s.cfg.fontTable s.mem)
    (hroom : s.pc.toNat + 2 ≤ Config.memSize) (hw : w < 2 ^ 16) :
    (s.withFetchWord 16 w).fetchWord = BitVec.ofNat 16 w := by
  rw [State.withFetchWord, if_pos hroom, Nat.mod_eq_of_lt hw]
  exact (State.fetchWord_storeBytes hmem _ _).trans (wordOfBytes_high_low _)

@[simp] theorem State.withFetchWord_pc (s : State) (n w : Nat) : (s.withFetchWord n w).pc = s.pc := by
  unfold State.withFetchWord
  split <;> rfl

@[simp] theorem State.withFetchWord_cfg (s : State) (n w : Nat) : (s.withFetchWord n w).cfg = s.cfg := by
  unfold State.withFetchWord
  split <;> rfl

@[simp] theorem State.withFetchWord_lastInstructionTick (s : State) (n w : Nat) :
    (s.withFetchWord n w).lastInstructionTick = s.lastInstructionTick := by
  unfold State.withFetchWord
  split <;> rfl

/-- The placement makes a cycle due (R257). -/
theorem State.instrDue_withFetchWord (s : State) (n w : Nat) : (s.withFetchWord n w).instrDue = true := by
  rw [State.instrDue_iff, State.withFetchWord_lastInstructionTick, State.withFetchWord_cfg]
  exact Nat.le_max_right _ _

theorem State.afterDue_of_cycles {u : State} (h : u.phase = .cycles) :
    u.afterDue = { u with lastInstructionTick := u.lastInstructionTick + u.cfg.instrInterval } := by
  rw [State.afterDue, ← h]

/-- A step at a due cycle whose word decodes (R122 to R126, R257). -/
theorem step_of_decode {s t : State} {i : Instr} (hrun : s.run = .running) (hphase : s.phase = .cycles)
    (hdue : s.instrDue = true) (hroom : s.pc.toNat + 2 ≤ Config.memSize) (hd : decodeWord s.fetchWord = .ok i)
    (hx : exec i s.advancePc = .next t) :
    step s = .next { t.endCycle with lastInstructionTick := s.lastInstructionTick + s.cfg.instrInterval } := by
  have hsame := exec_untouched hx
  have hcycles : t.endCycle.phase = .cycles := (State.endCycle_phase t).trans (hsame.phase.trans hphase)
  have htick : t.endCycle.lastInstructionTick + t.endCycle.cfg.instrInterval =
      s.lastInstructionTick + s.cfg.instrInterval := by
    rw [State.endCycle_lastInstructionTick, State.endCycle_cfg, hsame.lastInstructionTick, hsame.cfg]
    rfl
  rw [step_of_due hrun hphase hdue, State.dueCycle_eq_next.2 ⟨_, instructionCycle_of_decode hroom hd hx, rfl⟩,
    State.afterDue_of_cycles hcycles, htick]

/-- Settles O7: the placed word is fetched and decoded in a due cycle. -/
theorem placedWordIsTheNextInstruction : Obligations.PlacedWordIsTheNextInstruction := by
  intro s w i hmem hroom hw htable
  obtain ⟨t, hx⟩ := exec_answers_next i (s.withFetchWord 16 w).advancePc
  have hpc : (s.withFetchWord 16 w).pc = s.pc := s.withFetchWord_pc 16 w
  have hdecode : decodeWord (s.withFetchWord 16 w).fetchWord = .ok i := by
    rw [State.fetchWord_withFetchWord hmem hroom hw]
    exact decodeTableWord_eq_some hw htable
  have hstep := step_of_decode rfl rfl (s.instrDue_withFetchWord 16 w) (hpc ▸ hroom) hdecode hx
  rw [State.withFetchWord_lastInstructionTick, State.withFetchWord_cfg] at hstep
  rw [State.advancePc, hpc] at hx
  exact ⟨_, t, rfl, hx, hstep⟩

end Sys2Proof.Machine
end

section
/-! PROOFS of the statements of spec/30_encoding.md: the decoder and the encoder are inverse to each other, the decoder
against the table of R95 and the list of R98, and the step at an illegal word. -/

namespace Sys2Proof

open Sys2Proof.Machine Sys2Proof.Laws

/-! ### Decoding the words of the formats -/

/-- Settles O2, by the format of the instruction's word: the decoder reads back each field the encoder wrote. -/
theorem decodeOfEncode : Obligations.DecodeOfEncode := by
  intro i hwf
  cases i
  case cls | ret => decide
  case jp | call | ldI | jpV0 => simp [encode, decodeWord]
  case seImm | sneImm | ldImm | addImm | rnd => simp [encode, decodeWord]
  case seReg | sneReg => simp [encode, decodeWord]
  case ldReg | orReg | andReg | xorReg | addReg | subReg | shr | subnReg | shl => simp [encode, decodeWord, decodeAlu]
  case drw x y n =>
    have hn : n < 16 := of_decide_eq_true hwf
    simp [encode, decodeWord, hn]
  case skp | sknp => simp [encode, encX, decodeWord]
  case ldVxDt | ldVxK | ldDtVx | ldStVx | addI | ldF | ldB | storeRegs | loadRegs =>
    simp [encode, encX, decodeWord, decodeMisc]

/-- Settles O1: each of the seven is the word of its instruction. -/
theorem sampleWordsDecode : Obligations.SampleWordsDecode :=
  ⟨decodeOfEncode .ret rfl, decodeOfEncode (.call 0x20A) rfl, decodeOfEncode (.ldImm 10 5) rfl,
    decodeOfEncode (.addReg 0 15) rfl, decodeOfEncode (.drw 1 2 5) rfl, decodeOfEncode (.sknp 5) rfl,
    decodeOfEncode (.loadRegs 2) rfl⟩

/-! ### A word is made of its fields (R91, R92) -/

/-- A word of `F_NNN` is put together from its fields. -/
theorem encNNN_of_fields {w : Word} {op : BitVec 4} (hop : (fieldOP w).toNat = op.toNat) :
    encNNN op (fieldNNN w) = w := by
  apply BitVec.eq_of_toNat_eq
  rw [toNat_encNNN, ← hop, toNat_fieldOP, toNat_fieldNNN]
  omega

/-- A word of `F_XKK` is put together from its fields. -/
theorem encXKK_of_fields {w : Word} {op : BitVec 4} {kk : Byte} (hop : (fieldOP w).toNat = op.toNat)
    (hkk : (fieldKK w).toNat = kk.toNat) : encXKK op (fieldX w) kk = w := by
  apply BitVec.eq_of_toNat_eq
  rw [toNat_encXKK, ← hop, ← hkk, toNat_fieldOP, val_fieldX, toNat_fieldKK]
  omega

/-- A word of `F_XY` or `F_XYN` is put together from its fields. -/
theorem encXYN_of_fields {w : Word} {op n : BitVec 4} (hop : (fieldOP w).toNat = op.toNat)
    (hn : (fieldN w).toNat = n.toNat) : encXYN op (fieldX w) (fieldY w) n = w := by
  apply BitVec.eq_of_toNat_eq
  rw [toNat_encXYN, ← hop, ← hn, toNat_fieldOP, val_fieldX, val_fieldY, toNat_fieldN]
  omega

/-! ### A mask acts on every field -/

theorem fieldOP_and (w m : Word) : fieldOP (w &&& m) = fieldOP w &&& fieldOP m := BitVec.extractLsb'_and

theorem fieldN_and (w m : Word) : fieldN (w &&& m) = fieldN w &&& fieldN m := BitVec.extractLsb'_and

theorem fieldKK_and (w m : Word) : fieldKK (w &&& m) = fieldKK w &&& fieldKK m := BitVec.extractLsb'_and

/-! ### Encoding what was decoded -/

theorem encode_of_decodeAlu {w : Word} {i : Instr} (hop : (fieldOP w).toNat = 8) (h : decodeAlu w = .ok i) :
    i.wellFormed = true ∧ encode i = w := by
  unfold decodeAlu at h
  split at h <;> cases h <;> exact ⟨rfl, encXYN_of_fields hop ‹_›⟩

theorem encode_of_decodeMisc {w : Word} {i : Instr} (hop : (fieldOP w).toNat = 15) (h : decodeMisc w = .ok i) :
    i.wellFormed = true ∧ encode i = w := by
  unfold decodeMisc at h
  split at h <;> cases h <;> exact ⟨rfl, encXKK_of_fields hop ‹_›⟩

/-- Settles O3, by the branch of the decoder: each branch fixes the fields that its instruction has no operand for. -/
theorem encodeOfDecode : Obligations.EncodeOfDecode := by
  intro w i h
  unfold decodeWord at h
  split at h
  case h_1 =>
    split at h
    case isTrue hw => cases h; exact ⟨rfl, hw.symm⟩
    case isFalse =>
      split at h
      case isTrue hw => cases h; exact ⟨rfl, hw.symm⟩
      case isFalse => cases h
  case h_2 | h_3 | h_11 | h_12 => cases h; exact ⟨rfl, encNNN_of_fields ‹_›⟩
  case h_4 | h_5 | h_7 | h_8 | h_13 => cases h; exact ⟨rfl, encXKK_of_fields ‹_› rfl⟩
  case h_6 | h_10 =>
    split at h
    case isTrue hn => cases h; exact ⟨rfl, encXYN_of_fields ‹_› (congrArg BitVec.toNat hn)⟩
    case isFalse => cases h
  case h_9 hop => exact encode_of_decodeAlu hop h
  case h_14 hop =>
    cases h
    exact ⟨decide_eq_true (fieldN w).isLt, encXYN_of_fields hop (by simp)⟩
  case h_15 hop =>
    split at h
    case isTrue hkk => cases h; exact ⟨rfl, encXKK_of_fields hop (congrArg BitVec.toNat hkk)⟩
    case isFalse =>
      split at h
      case isTrue hkk => cases h; exact ⟨rfl, encXKK_of_fields hop (congrArg BitVec.toNat hkk)⟩
      case isFalse => cases h
  case h_16 =>
    have hop : (fieldOP w).toNat = 15 := by have := (fieldOP w).isLt; grind
    exact encode_of_decodeMisc hop h

/-! ### The list of R98 -/

/-- The list of R98 in the fields of the word. -/
theorem illegalWord_iff (w : Word) : IllegalWord w.toNat ↔
    ((fieldOP w).toNat = 0 ∧ w ≠ 0x00E0 ∧ w ≠ 0x00EE) ∨
    ((fieldOP w).toNat = 5 ∧ fieldN w ≠ 0) ∨
    ((fieldOP w).toNat = 8 ∧ (fieldN w).toNat ∈ [0x8, 0x9, 0xA, 0xB, 0xC, 0xD, 0xF]) ∨
    ((fieldOP w).toNat = 9 ∧ fieldN w ≠ 0) ∨
    ((fieldOP w).toNat = 14 ∧ fieldKK w ≠ 0x9E ∧ fieldKK w ≠ 0xA1) ∨
    ((fieldOP w).toNat = 15 ∧ (fieldKK w).toNat ∉ [0x07, 0x0A, 0x15, 0x18, 0x1E, 0x29, 0x33, 0x55, 0x65]) := by
  simp [IllegalWord, ← BitVec.toNat_inj, toNat_fieldOP, toNat_fieldN, toNat_fieldKK]

theorem decodeAlu_eq_error_iff (w : Word) : decodeAlu w = .error (.illegalOpcode w) ↔
    (fieldN w).toNat ∈ [0x8, 0x9, 0xA, 0xB, 0xC, 0xD, 0xF] := by
  unfold decodeAlu
  split
  case h_10 =>
    have := (fieldN w).isLt
    simp only [List.mem_cons, List.not_mem_nil]
    grind
  all_goals simp [*]

theorem decodeMisc_eq_error_iff (w : Word) : decodeMisc w = .error (.illegalOpcode w) ↔
    (fieldKK w).toNat ∉ [0x07, 0x0A, 0x15, 0x18, 0x1E, 0x29, 0x33, 0x55, 0x65] := by
  unfold decodeMisc
  split
  case h_10 => simp_all
  all_goals simp [*]

/-- Settles O5, by the branch of the decoder, each held against the line of R98 with its `OP`. -/
theorem illegalWordsAreTheListedOnes : Obligations.IllegalWordsAreTheListedOnes := by
  intro w
  rw [illegalWord_iff]
  unfold decodeWord
  split
  case h_1 hop | h_15 hop =>
    simp only [hop]
    split_ifs <;> simp_all
  case h_6 hop | h_10 hop => simp [hop]
  case h_9 hop => simp [hop, decodeAlu_eq_error_iff]
  case h_16 =>
    have hop : (fieldOP w).toNat = 15 := by have := (fieldOP w).isLt; grind
    simp [hop, decodeMisc_eq_error_iff]
  -- the families that R98 does not name: every word of theirs decodes
  all_goals simp [*]

/-! ### The table of R95 -/

/-- The rows are pairwise disjoint: the bits that two masks share tell every two rows apart. -/
theorem opcodeRows_disjoint :
    ∀ r ∈ opcodeRows, ∀ q ∈ opcodeRows, r.fixed &&& q.mask = q.fixed &&& r.mask → r = q := by
  decide

theorem OpcodeRow.matches_iff {r : OpcodeRow} {w : Word} : r.matches w = true ↔ w &&& r.mask = r.fixed := beq_iff_eq

/-- Two rows that one word matches are one row (R96). -/
theorem OpcodeRow.eq_of_matches {r q : OpcodeRow} (hr : r ∈ opcodeRows) (hq : q ∈ opcodeRows) {w : Word}
    (hrw : r.matches w = true) (hqw : q.matches w = true) : r = q := by
  rw [OpcodeRow.matches_iff] at hrw hqw
  refine opcodeRows_disjoint r hr q hq ?_
  rw [← hrw, ← hqw]
  ac_rfl

/-- The word of every well-formed instruction matches the row of the instruction (R96). -/
theorem rowMatch : ∀ i : Instr, RowMatch.Statement i
  | .cls => RowMatch.cls
  | .ret => RowMatch.ret
  | .jp nnn => RowMatch.jp nnn
  | .call nnn => RowMatch.call nnn
  | .seImm x kk => RowMatch.seImm x kk
  | .sneImm x kk => RowMatch.sneImm x kk
  | .seReg x y => RowMatch.seReg x y
  | .ldImm x kk => RowMatch.ldImm x kk
  | .addImm x kk => RowMatch.addImm x kk
  | .ldReg x y => RowMatch.ldReg x y
  | .orReg x y => RowMatch.orReg x y
  | .andReg x y => RowMatch.andReg x y
  | .xorReg x y => RowMatch.xorReg x y
  | .addReg x y => RowMatch.addReg x y
  | .subReg x y => RowMatch.subReg x y
  | .shr x y => RowMatch.shr x y
  | .subnReg x y => RowMatch.subnReg x y
  | .shl x y => RowMatch.shl x y
  | .sneReg x y => RowMatch.sneReg x y
  | .ldI nnn => RowMatch.ldI nnn
  | .jpV0 nnn => RowMatch.jpV0 nnn
  | .rnd x kk => RowMatch.rnd x kk
  | .drw x y n => RowMatch.drw x y n
  | .skp x => RowMatch.skp x
  | .sknp x => RowMatch.sknp x
  | .ldVxDt x => RowMatch.ldVxDt x
  | .ldVxK x => RowMatch.ldVxK x
  | .ldDtVx x => RowMatch.ldDtVx x
  | .ldStVx x => RowMatch.ldStVx x
  | .addI x => RowMatch.addI x
  | .ldF x => RowMatch.ldF x
  | .ldB x => RowMatch.ldB x
  | .storeRegs x => RowMatch.storeRegs x
  | .loadRegs x => RowMatch.loadRegs x

/-! ### What a match says of the fields -/

/-- Every mask keeps the top nibble. -/
theorem OpcodeRow.matches_fieldOP {r : OpcodeRow} (hr : r ∈ opcodeRows) {w : Word} (h : r.matches w = true) :
    (fieldOP w).toNat = (fieldOP r.fixed).toNat := by
  have hmask : ∀ r ∈ opcodeRows, fieldOP r.mask = BitVec.allOnes 4 := by decide
  rw [← OpcodeRow.matches_iff.1 h, fieldOP_and, hmask r hr, BitVec.and_allOnes]

theorem OpcodeRow.matches_fieldN {r : OpcodeRow} {w : Word} (h : r.matches w = true)
    (hmask : fieldN r.mask = BitVec.allOnes 4) : (fieldN w).toNat = (fieldN r.fixed).toNat := by
  rw [← OpcodeRow.matches_iff.1 h, fieldN_and, hmask, BitVec.and_allOnes]

theorem OpcodeRow.matches_fieldKK {r : OpcodeRow} {w : Word} (h : r.matches w = true)
    (hmask : fieldKK r.mask = BitVec.allOnes 8) : (fieldKK w).toNat = (fieldKK r.fixed).toNat := by
  rw [← OpcodeRow.matches_iff.1 h, fieldKK_and, hmask, BitVec.and_allOnes]

/-- A word that matches a row is the word of an instruction of the row: the match fixes the fields that the instruction
has no operand for. -/
theorem OpcodeRow.exists_encode_of_matches {r : OpcodeRow} (hr : r ∈ opcodeRows) {w : Word} (h : r.matches w = true) :
    ∃ i, i.wellFormed = true ∧ encode i = w ∧ i.rowNumber = r.number := by
  have hop := OpcodeRow.matches_fieldOP hr h
  have hn := OpcodeRow.matches_fieldN h
  have hkk := OpcodeRow.matches_fieldKK h
  fin_cases hr
  · exact ⟨.cls, rfl, (OpcodeRow.matches_iff.1 h).symm.trans BitVec.and_allOnes, rfl⟩
  · exact ⟨.ret, rfl, (OpcodeRow.matches_iff.1 h).symm.trans BitVec.and_allOnes, rfl⟩
  · exact ⟨.jp _, rfl, encNNN_of_fields hop, rfl⟩
  · exact ⟨.call _, rfl, encNNN_of_fields hop, rfl⟩
  · exact ⟨.seImm _ _, rfl, encXKK_of_fields hop rfl, rfl⟩
  · exact ⟨.sneImm _ _, rfl, encXKK_of_fields hop rfl, rfl⟩
  · exact ⟨.seReg _ _, rfl, encXYN_of_fields hop (hn rfl), rfl⟩
  · exact ⟨.ldImm _ _, rfl, encXKK_of_fields hop rfl, rfl⟩
  · exact ⟨.addImm _ _, rfl, encXKK_of_fields hop rfl, rfl⟩
  · exact ⟨.ldReg _ _, rfl, encXYN_of_fields hop (hn rfl), rfl⟩
  · exact ⟨.orReg _ _, rfl, encXYN_of_fields hop (hn rfl), rfl⟩
  · exact ⟨.andReg _ _, rfl, encXYN_of_fields hop (hn rfl), rfl⟩
  · exact ⟨.xorReg _ _, rfl, encXYN_of_fields hop (hn rfl), rfl⟩
  · exact ⟨.addReg _ _, rfl, encXYN_of_fields hop (hn rfl), rfl⟩
  · exact ⟨.subReg _ _, rfl, encXYN_of_fields hop (hn rfl), rfl⟩
  · exact ⟨.shr _ _, rfl, encXYN_of_fields hop (hn rfl), rfl⟩
  · exact ⟨.subnReg _ _, rfl, encXYN_of_fields hop (hn rfl), rfl⟩
  · exact ⟨.shl _ _, rfl, encXYN_of_fields hop (hn rfl), rfl⟩
  · exact ⟨.sneReg _ _, rfl, encXYN_of_fields hop (hn rfl), rfl⟩
  · exact ⟨.ldI _, rfl, encNNN_of_fields hop, rfl⟩
  · exact ⟨.jpV0 _, rfl, encNNN_of_fields hop, rfl⟩
  · exact ⟨.rnd _ _, rfl, encXKK_of_fields hop rfl, rfl⟩
  · exact ⟨.drw _ _ (fieldN w).toNat, decide_eq_true (fieldN w).isLt, encXYN_of_fields hop (by simp), rfl⟩
  · exact ⟨.skp _, rfl, encXKK_of_fields hop (hkk rfl), rfl⟩
  · exact ⟨.sknp _, rfl, encXKK_of_fields hop (hkk rfl), rfl⟩
  · exact ⟨.ldVxDt _, rfl, encXKK_of_fields hop (hkk rfl), rfl⟩
  · exact ⟨.ldVxK _, rfl, encXKK_of_fields hop (hkk rfl), rfl⟩
  · exact ⟨.ldDtVx _, rfl, encXKK_of_fields hop (hkk rfl), rfl⟩
  · exact ⟨.ldStVx _, rfl, encXKK_of_fields hop (hkk rfl), rfl⟩
  · exact ⟨.addI _, rfl, encXKK_of_fields hop (hkk rfl), rfl⟩
  · exact ⟨.ldF _, rfl, encXKK_of_fields hop (hkk rfl), rfl⟩
  · exact ⟨.ldB _, rfl, encXKK_of_fields hop (hkk rfl), rfl⟩
  · exact ⟨.storeRegs _, rfl, encXKK_of_fields hop (hkk rfl), rfl⟩
  · exact ⟨.loadRegs _, rfl, encXKK_of_fields hop (hkk rfl), rfl⟩

/-- Settles O4: a match hands the decoder a word of the row, and a decoded word matches the row of its instruction. -/
theorem wordMatchesItsRowOnly : Obligations.WordMatchesItsRowOnly := by
  refine ⟨fun r hr w => ⟨fun h => ?_, ?_⟩, fun r hr q hq w => OpcodeRow.eq_of_matches hr hq⟩
  · obtain ⟨i, hwf, rfl, hrow⟩ := OpcodeRow.exists_encode_of_matches hr h
    exact ⟨i, decodeOfEncode i hwf, hrow⟩
  · rintro ⟨i, hdecode, hrow⟩
    obtain ⟨hwf, rfl⟩ := encodeOfDecode w i hdecode
    exact OpcodeRow.matches_iff.2 (rowMatch i hwf r hr hrow.symm)

end Sys2Proof

namespace Sys2Proof.Machine

/-! ### The step at an illegal word -/

/-- The cycle at an illegal word (R128, R297). -/
theorem instructionCycle_of_illegal {s : State} (hroom : s.pc.toNat + 2 ≤ Config.memSize)
    (hillegal : IllegalWord s.fetchWord.toNat) :
    instructionCycle s = .next (s.raise s.pc (.illegalOpcode s.fetchWord)) := by
  have hd := (illegalWordsAreTheListedOnes s.fetchWord).2 hillegal
  rw [instructionCycle, rangeFault_eq_none.2 (.inr hroom)]
  simp [hd]

/-- Settles O9: the due cycle faults at decode, and nothing after it but the accumulator moves. -/
theorem illegalWordFaults : Obligations.IllegalWordFaults := by
  intro s hrun hphase hdue hroom hillegal
  have hcycle := instructionCycle_of_illegal hroom hillegal
  rw [step_of_due hrun hphase (State.instrDue_iff.2 hdue), State.dueCycle_eq_next.2 ⟨_, hcycle, rfl⟩,
    State.afterDue_of_cycles (u := s.raise s.pc _) hphase]
  rfl

end Sys2Proof.Machine
end

section
/-! PROOFS of the statements of spec/40_cycle.md, and of `1NNN` whose jump to 0xFFF the next fetch answers: what a cycle
does at each of its three checks, which faults there are, and what it does not look at. -/

namespace Sys2Proof.Machine

/-! ### The fetch (R122) -/

/-- A cycle whose fetch reaches outside memory (R122, R128, R302). -/
theorem instructionCycle_of_rangeFault {s : State} {a : Nat} (h : rangeFault s.pc.toNat 2 = some a) :
    instructionCycle s = .next (s.raise s.pc (.addressOutOfRange a)) := by
  rw [instructionCycle, h]

/-- The fetch at 0xFFF and above reaches outside memory (R62, R122). -/
theorem rangeFault_fetch {p : Nat} (hp : 0xFFF ≤ p) : rangeFault p 2 = some (max p 4096) :=
  rangeFault_eq_some.2 ⟨by decide, show 4096 < p + 2 by omega, rfl⟩

/-- A fetch that goes on has room for the word (R122). -/
theorem room_of_rangeFault_fetch {p : Nat} (h : rangeFault p 2 = none) : p + 2 ≤ Config.memSize :=
  (rangeFault_eq_none.1 h).resolve_left (by decide)

/-- Settles O8: the due cycle faults at fetch, and nothing after it but the accumulator moves. -/
theorem fetchOutsideMemoryFaults : Obligations.FetchOutsideMemoryFaults := by
  intro s hrun hphase hdue hpc
  have hcycle := instructionCycle_of_rangeFault (rangeFault_fetch hpc)
  rw [step_of_due hrun hphase (State.instrDue_iff.2 hdue), State.dueCycle_eq_next.2 ⟨_, hcycle, rfl⟩,
    State.afterDue_of_cycles (u := s.raise s.pc _) hphase]
  rfl

/-! ### The decoded instruction (R125, R126) -/

/-- Phase 5 writes the two timers only (R126). -/
theorem State.endCycle_eq (s : State) : s.endCycle = { s with
    dt := if s.cfg.timerPerCycle = true ∧ s.run = .running then countDown s.dt else s.dt
    st := if s.cfg.timerPerCycle = true ∧ s.run = .running then countDown s.st else s.st } := by
  unfold State.endCycle
  split <;> rfl

/-- Phase 5 is left out after a fault (R128). -/
theorem State.endCycle_of_faulted {s : State} {c : Cause} (h : s.run = .faulted c) : s.endCycle = s := by
  simp [State.endCycle, h]

/-- Settles O6: the step of the decoded instruction, with phase 5 written out. -/
theorem stepRunsDecodedInstruction : Obligations.StepRunsDecodedInstruction := by
  intro s t i hrun hphase hdue hroom hdecode _ hx
  have hcycles : t.phase = .cycles := (exec_untouched hx).phase.trans hphase
  have hcfg : t.cfg = s.cfg := (exec_untouched hx).cfg
  rw [step_of_decode hrun hphase (State.instrDue_iff.2 hdue) hroom hdecode hx, State.endCycle_eq, ← hcycles, ← hcfg]

/-! ### The faults (R128, R297, R298) -/

theorem decodeAlu_error_eq {w : Word} {e : DecodeError} (h : decodeAlu w = .error e) : e = .illegalOpcode w := by
  unfold decodeAlu at h
  split at h <;> cases h
  rfl

theorem decodeMisc_error_eq {w : Word} {e : DecodeError} (h : decodeMisc w = .error e) : e = .illegalOpcode w := by
  unfold decodeMisc at h
  split at h <;> cases h
  rfl

/-- The decoder has one reason to reject a word, and names the word (R98). -/
theorem decodeWord_error_eq {w : Word} {e : DecodeError} (h : decodeWord w = .error e) : e = .illegalOpcode w := by
  unfold decodeWord at h
  split at h
  case h_1 | h_6 | h_10 | h_15 => split_ifs at h; cases h; rfl
  case h_9 => exact decodeAlu_error_eq h
  case h_16 => exact decodeMisc_error_eq h
  all_goals cases h

/-- A word that the decoder rejects is on the list of R98. -/
theorem illegalWord_of_decodeWord_error {w : Word} {e : DecodeError} (h : decodeWord w = .error e) :
    IllegalWord w.toNat :=
  (illegalWordsAreTheListedOnes w).1 (decodeWord_error_eq h ▸ h)

/-- An instruction whose range is inside memory does not fault (R298). -/
theorem exec_run_of_in_range {i : Instr} {s t : State} (hrange : rangeFault s.base (accessLen i) = none)
    (h : exec i s = .next t) : t.run = s.run := by
  cases i
  case ret => rcases execRet_cases h with ⟨-, rfl⟩ | ⟨j, p, -, -, rfl⟩ <;> rfl
  case call => rcases execCall_cases h with ⟨-, rfl⟩ | ⟨j, p, -, -, rfl⟩ <;> rfl
  case ldVxK => rcases execLdVxK_cases h with ⟨k, -, rfl⟩ | ⟨-, rfl⟩ <;> rfl
  case drw | ldB | storeRegs | loadRegs =>
    rcases State.checkRange_eq_next h with ⟨-, rfl⟩ | ⟨a, hout, -⟩
    · rfl
    · exact absurd (hrange.symm.trans hout) nofun
  case seImm | sneImm | seReg | sneReg | skp | sknp => cases h; exact s.skipIf_run _
  case subReg | subnReg => cases h; exact s.subtract_run _ _ _
  all_goals (cases h; rfl)

/-- The one fault of an instruction: its range reaches outside memory (R298, R302). -/
theorem exec_faulted {i : Instr} {s t : State} {c : Cause} (hrun : s.run = .running) (h : exec i s = .next t)
    (hfault : t.run = .faulted c) :
    accessLen i ≠ 0 ∧ 4096 < s.i.toNat + accessLen i ∧ c = .addressOutOfRange (max s.i.toNat 4096) ∧
      t = s.raiseInInstr c := by
  cases hrange : rangeFault s.base (accessLen i) with
  | none =>
    rw [exec_run_of_in_range hrange h, hrun] at hfault
    cases hfault
  | some a =>
    obtain ⟨hlen, hout, -⟩ := rangeFault_eq_some.1 hrange
    rw [outOfRangeInstructionTraps i s hlen hout] at h
    cases h
    cases hfault
    exact ⟨hlen, hout, rfl, rfl⟩

/-- Settles O10, by the three checks of a cycle: fetch, decode, the instruction's own (R301). -/
theorem faultedCycleChangesOnlyRun : Obligations.FaultedCycleChangesOnlyRun := by
  intro s t c hrun h hfault
  rcases instructionCycle_cases h with ⟨a, hfetch, rfl⟩ | ⟨-, ⟨e, hdecode⟩, rfl⟩ | ⟨-, i, u, hdecode, hx, rfl⟩
  · cases hfault
    obtain ⟨-, hout, rfl⟩ := rangeFault_eq_some.1 hfetch
    have hpc : 4096 < s.pc.toNat + 2 := hout
    exact ⟨rfl, Nat.le_max_right _ _, .inl ⟨rfl, by omega⟩⟩
  · cases hfault
    exact ⟨rfl, rfl, illegalWord_of_decodeWord_error hdecode⟩
  · rw [State.endCycle_run] at hfault
    obtain ⟨hlen, hout, rfl, rfl⟩ := exec_faulted (s := s.advancePc) hrun hx hfault
    rw [State.endCycle_of_faulted hfault, State.raiseInInstr_advancePc]
    exact ⟨rfl, Nat.le_max_right _ _, .inr ⟨i, hdecode, hlen, hout, rfl⟩⟩

/-! ### What a cycle does not look at (R120) -/

theorem State.endCycle_withSchedulerOf (s u : State) :
    (s.withSchedulerOf u).endCycle = s.endCycle.withSchedulerOf u := by
  rw [State.endCycle_eq, State.endCycle_eq]
  rfl

/-- A cycle does the same whatever the scheduler's and the host's fields hold, and leaves them alone (R120). -/
theorem instructionCycle_withSchedulerOf {s t : State} (u : State) (h : instructionCycle s = .next t) :
    instructionCycle (s.withSchedulerOf u) = .next (t.withSchedulerOf u) := by
  rcases instructionCycle_cases h with ⟨a, hfetch, rfl⟩ | ⟨hfetch, ⟨e, hdecode⟩, rfl⟩ | ⟨hfetch, i, w, hdecode, hx, rfl⟩
  · exact instructionCycle_of_rangeFault (s := s.withSchedulerOf u) hfetch
  · exact instructionCycle_of_illegal (s := s.withSchedulerOf u)
      (room_of_rangeFault_fetch hfetch) (illegalWord_of_decodeWord_error hdecode)
  · rw [← State.endCycle_withSchedulerOf]
    exact instructionCycle_of_decode (s := s.withSchedulerOf u)
      (room_of_rangeFault_fetch hfetch) hdecode (exec_withSchedulerOf u hx)

/-- Settles O11: `withSchedulerOf` sets every field that the statement varies; the rest is `Untouched`. -/
theorem cycleIsBlindToTheScheduler : Obligations.CycleIsBlindToTheScheduler := by
  intro s t h
  have hsame := instructionCycle_untouched h
  refine ⟨fun a b c n q closed l fr cf p => ?_, hsame.key, hsame.cfg, hsame.reports, hsame.run,
    fun hne u hstep => hne (step_cases hstep).1⟩
  exact instructionCycle_withSchedulerOf { s with
    lastInstructionTick := a, lastRenderTick := b, lastTimerTick := c, now := n, inq := q, inqClosed := closed,
    loaded := l, frames := fr, clockFeed := cf, phase := p } h

/-! ### `1NNN` (R142) -/

/-- The words of a well-formed instruction are the one word the encoder gives it (R92, R95). -/
theorem hasWord_encode {i : Instr} (hwf : i.wellFormed = true) : HasWord i (encode i).toNat := by
  intro w
  constructor
  · intro h
    rw [(encodeOfDecode w i h).2]
  · intro h
    rw [BitVec.eq_of_toNat_eq h]
    exact decodeOfEncode i hwf

theorem hasWord_jp (nnn : BitVec 12) : HasWord (.jp nnn) (0x1000 + nnn.toNat) := by
  have hword : (encode (.jp nnn)).toNat = 0x1000 + nnn.toNat := toNat_encNNN 1 nnn
  exact hword ▸ hasWord_encode rfl

/-- Settles O18: the jump sets `pc`; at 0xFFF the next fetch is out of range; back at its own address `pc` is what it
was. -/
theorem jumpSetsPc : Obligations.JumpSetsPc := by
  refine ⟨hasWord_jp, fun nnn s => ?_, fun nnn s hself => ?_⟩
  · refine ⟨s.setPc (zextAddr nnn), rfl, toNat_zextAddr nnn, ⟨fun _ _ => rfl, fun _ => rfl, rfl⟩, fun hlast => ?_⟩
    have hfetch : rangeFault (s.setPc (zextAddr nnn)).pc.toNat 2 = some 0x1000 := by
      rw [State.setPc_pc, toNat_zextAddr, hlast]
      rfl
    exact instructionCycle_of_rangeFault hfetch
  · have hpc : zextAddr nnn = s.pc := BitVec.eq_of_toNat_eq ((toNat_zextAddr nnn).trans hself.symm)
    rw [exec, execJp, hpc]
    rfl

end Sys2Proof.Machine
end

section
/-! PROOFS of the statements of spec/41_control.md: the call, the offset jump and the skips by a comparison. -/

namespace Sys2Proof.Machine

/-! ### The words of an instruction (R92, R95) -/

theorem hasWord_of_toNat_encode {i : Instr} {w : Nat} (hwf : i.wellFormed = true) (hw : (encode i).toNat = w) :
    HasWord i w :=
  hw ▸ hasWord_encode hwf

/-! ### `BNNN` (R144) -/

theorem OnlyPc.setPc (s : State) (w : Word) : OnlyPc s (s.setPc w) :=
  ⟨fun _ _ => rfl, fun _ => rfl, rfl⟩

/-- Settles O19: the largest sum, 0xFFF + 0xFF, fits the 16 bits of `pc`. -/
theorem offsetJumpAddsV0 : Obligations.OffsetJumpAddsV0 := fun nnn s =>
  ⟨_, rfl, toNat_zextAddr_add_zextByte nnn (s.reg 0), .setPc s _⟩

/-! ### `2NNN` (R143) -/

/-- Settles O20: the two cases of `execCall_cases`, exclusive by `sp`; a full stack stays full, so the next return pops
its last slot. -/
theorem callPushesAndJumps : Obligations.CallPushesAndJumps := by
  refine ⟨fun nnn => hasWord_of_toNat_encode rfl (toNat_encNNN 2 nnn), fun nnn s => ?_⟩
  obtain ⟨t, h⟩ := exec_answers_next (.call nnn) s
  refine ⟨t, h, ?_⟩
  rcases execCall_cases h with ⟨hfull, rfl⟩ | ⟨j, p, hj, hp, rfl⟩
  · refine ⟨toNat_zextAddr nnn, fun k hk => ?_, fun _ => ⟨rfl, rfl, rfl, ?_⟩, fun _ _ => rfl, fun _ => rfl, rfl⟩
    · omega
    · exact ⟨_, exec_ret_pop (s := (s.report .stackOverflow).setPc _) (j := 15) (p := 15) hfull rfl, rfl, rfl⟩
  · refine ⟨toNat_zextAddr nnn, fun k hk => ?_, fun hfull => ?_, fun _ _ => rfl, fun _ => rfl, rfl⟩
    · obtain rfl : k = j := Fin.ext (hk.symm.trans hj)
      refine ⟨hp.trans (congrArg Nat.succ hj.symm), by simp, fun l hl => ?_, rfl⟩
      have hne : k.val ≠ l.val := Fin.val_ne_of_ne hl.symm
      simp [hne]
    · omega

/-! ### `3XKK`, `4XKK`, `5XY0`, `9XY0` (R145 to R148) -/

/-- A skip on equal bytes, the bytes compared as unsigned numbers (R145, R147). -/
theorem State.skipIf_beq_pc (s : State) (a b : Byte) :
    (s.skipIf (a == b)).pc = if a.toNat = b.toNat then s.pc + 2 else s.pc := by
  simp [BitVec.toNat_inj]

/-- A skip on unequal bytes, the bytes compared as unsigned numbers (R146, R148). -/
theorem State.skipIf_bne_pc (s : State) (a b : Byte) :
    (s.skipIf (a != b)).pc = if a.toNat = b.toNat then s.pc else s.pc + 2 := by
  simp [BitVec.toNat_inj]

/-- Settles O23: each of the four is `skipIf` of its comparison. -/
theorem compareSkips : Obligations.CompareSkips := by
  refine ⟨fun x y kk => ⟨?_, ?_, ?_, ?_⟩, fun x y kk s => ⟨?_, ?_, ?_, ?_⟩⟩
  · exact hasWord_of_toNat_encode rfl (toNat_encXKK 3 x kk)
  · exact hasWord_of_toNat_encode rfl (toNat_encXKK 4 x kk)
  · exact hasWord_of_toNat_encode rfl (toNat_encXYN 5 x y 0)
  · exact hasWord_of_toNat_encode rfl (toNat_encXYN 9 x y 0)
  · exact ⟨_, rfl, s.skipIf_beq_pc _ _, .skipIf s _⟩
  · exact ⟨_, rfl, s.skipIf_bne_pc _ _, .skipIf s _⟩
  · exact ⟨_, rfl, s.skipIf_beq_pc _ _, .skipIf s _⟩
  · exact ⟨_, rfl, s.skipIf_bne_pc _ _, .skipIf s _⟩

end Sys2Proof.Machine
end

section
/-! PROOFS of the statements of spec/42_load_alu.md: what each load, arithmetic, logic, shift and random instruction
leaves in `VX` and in `VF`, and that it writes nothing else. -/

namespace Sys2Proof.Machine

/-! ### The frame of an instruction that writes only registers -/

/-- An instruction that leaves every field but the register file alone writes its destination registers only. -/
theorem onlyRegs_destRegs {i : Instr} {s t : State} (h : exec i s = .next t) (hv : t = { s with v := t.v }) :
    OnlyRegs (destRegs i) s t := by
  refine ⟨fun r hr => onlyDestinationRegistersChange i s t r h hr, fun a => ?_, hv⟩
  rw [hv]
  rfl

theorem State.subtract_eq_with_v (s : State) (x : Reg) (a b : Byte) :
    s.subtract x a b = { s with v := (s.subtract x a b).v } := by
  unfold State.subtract
  split <;> rfl

/-! ### The flag and the data result (R23, R24, R161) -/

/-- The flag is written last, so it is what `VF` holds even where `X` is 15. -/
@[simp] theorem State.reg_setRegFlag_flag (s : State) (x : Reg) (b : Byte) (f : Bool) :
    (s.setRegFlag x b f).reg 15 = flagByte f := by
  rw [State.reg_setRegFlag, if_pos rfl]

theorem State.reg_setRegFlag_data (s : State) {x : Reg} (b : Byte) (f : Bool) (hx : x ≠ 15) :
    (s.setRegFlag x b f).reg x = b := by
  rw [State.reg_setRegFlag, if_neg hx, if_pos rfl]

@[simp] theorem toNat_flagByte (f : Bool) : (flagByte f).toNat = f.toNat := by
  cases f <;> rfl

/-! ### The flags as numbers (R160) -/

theorem toNat_carryOut (a b : Byte) : (carryOut a b).toNat = (a.toNat + b.toNat) / 256 := by
  have ha := a.isLt
  have hb := b.isLt
  by_cases hcarry : 255 < a.toNat + b.toNat
  · rw [carryOut, decide_eq_true hcarry, Bool.toNat_true]
    omega
  · rw [carryOut, decide_eq_false hcarry, Bool.toNat_false]
    omega

theorem toNat_bitShiftedRight (a : Byte) : (bitShiftedRight a).toNat = a.toNat % 2 := by
  rw [bitShiftedRight, BitVec.getLsbD, Nat.toNat_testBit, pow_zero, Nat.div_one]

theorem toNat_bitShiftedLeft (a : Byte) : (bitShiftedLeft a).toNat = a.toNat / 128 := by
  have ha := a.isLt
  rw [bitShiftedLeft, BitVec.getLsbD, Nat.toNat_testBit]
  omega

/-! ### The conditional subtraction (R169, R171) -/

theorem State.reg_subtract_flag (s : State) (x : Reg) (a b : Byte) :
    (s.subtract x a b).reg 15 = if b.toNat < a.toNat then 1 else 0 := by
  rw [State.reg_subtract, if_pos rfl, flagByte, exceeds]
  simp only [decide_eq_true_eq]

/-- A positive difference does not wrap. -/
theorem State.toNat_reg_subtract_data (s : State) {x : Reg} (a b : Byte) (hx : x ≠ 15) :
    ((s.subtract x a b).reg x).toNat =
      if b.toNat < a.toNat then a.toNat - b.toNat else (s.reg x).toNat := by
  rw [State.reg_subtract, if_neg hx]
  by_cases hlt : b.toNat < a.toNat
  · rw [if_pos ⟨rfl, hlt⟩, if_pos hlt, BitVec.toNat_sub_of_le (BitVec.le_def.2 hlt.le)]
  · rw [if_neg (fun h => hlt h.right), if_neg hlt]

/-! ### The instructions -/

/-- Settles O24: each of the three is `setReg` of its byte; `+` on bytes is the sum modulo 256. -/
theorem loadsAndImmediateAdd : Obligations.LoadsAndImmediateAdd := by
  refine ⟨fun x y kk => ⟨?_, ?_, ?_⟩, fun x y kk s => ⟨?_, ?_, ?_⟩⟩
  · exact hasWord_of_toNat_encode rfl (toNat_encXKK 6 x kk)
  · exact hasWord_of_toNat_encode rfl (toNat_encXKK 7 x kk)
  · exact hasWord_of_toNat_encode rfl (toNat_encXYN 8 x y 0)
  · exact ⟨_, rfl, s.reg_setReg_self x kk, onlyRegs_destRegs (i := .ldImm x kk) rfl rfl⟩
  · refine ⟨_, rfl, ?_, onlyRegs_destRegs (i := .addImm x kk) rfl rfl⟩
    rw [State.reg_setReg_self, BitVec.toNat_add]
  · exact ⟨_, rfl, s.reg_setReg_self x _, onlyRegs_destRegs (i := .ldReg x y) rfl rfl⟩

/-- Settles O25: `|||`, `&&&` and `^^^` on bytes act on each bit. -/
theorem logicIsBitByBit : Obligations.LogicIsBitByBit := by
  refine fun x y s => ⟨?_, ?_, ?_⟩
  · refine ⟨_, rfl, onlyRegs_destRegs (i := .orReg x y) rfl rfl, fun k _ => ?_⟩
    rw [State.reg_setReg_self, BitVec.getLsbD_or]
  · refine ⟨_, rfl, onlyRegs_destRegs (i := .andReg x y) rfl rfl, fun k _ => ?_⟩
    rw [State.reg_setReg_self, BitVec.getLsbD_and]
  · refine ⟨_, rfl, onlyRegs_destRegs (i := .xorReg x y) rfl rfl, fun k _ => ?_⟩
    rw [State.reg_setReg_self, BitVec.getLsbD_xor]

/-- Settles O26: the carry-out is the quotient of the exact sum by 256, and `VX` its remainder. -/
theorem addGivesSumAndCarry : Obligations.AddGivesSumAndCarry := by
  refine fun x y s => ⟨_, rfl, ?_, fun hx => ?_, onlyRegs_destRegs (i := .addReg x y) rfl rfl⟩
  · rw [State.reg_setRegFlag_flag, toNat_flagByte, toNat_carryOut]
  · rw [State.reg_setRegFlag_data _ _ _ hx, BitVec.toNat_add]

/-- Settles O27: both orders are `State.subtract`, with the operands exchanged. -/
theorem subtractStoresOnlyPositiveDifference : Obligations.SubtractStoresOnlyPositiveDifference := by
  refine fun x y s => ⟨?_, ?_⟩
  · exact ⟨_, rfl, onlyRegs_destRegs (i := .subReg x y) rfl (s.subtract_eq_with_v _ _ _),
      s.reg_subtract_flag x _ _, s.toNat_reg_subtract_data _ _⟩
  · exact ⟨_, rfl, onlyRegs_destRegs (i := .subnReg x y) rfl (s.subtract_eq_with_v _ _ _),
      s.reg_subtract_flag x _ _, s.toNat_reg_subtract_data _ _⟩

/-- Settles O28: a shift by one halves or doubles the byte, and the flag is the bit it loses. -/
theorem shiftsGiveShiftedOutBit : Obligations.ShiftsGiveShiftedOutBit := by
  refine fun x y s => ⟨⟨_, rfl, ?_, fun hx => ?_, onlyRegs_destRegs (i := .shr x y) rfl rfl⟩,
    ⟨_, rfl, ?_, fun hx => ?_, onlyRegs_destRegs (i := .shl x y) rfl rfl⟩⟩
  · rw [State.reg_setRegFlag_flag, toNat_flagByte, toNat_bitShiftedRight]
  · rw [State.reg_setRegFlag_data _ _ _ hx, BitVec.toNat_ushiftRight, Nat.shiftRight_eq_div_pow, pow_one]
  · rw [State.reg_setRegFlag_flag, toNat_flagByte, toNat_bitShiftedLeft]
  · rw [State.reg_setRegFlag_data _ _ _ hx, BitVec.toNat_shiftLeft, Nat.shiftLeft_eq, pow_one, Nat.mul_comm]

/-- Settles O29: the drawn byte is the free value at the count of draws before the instruction. -/
theorem randomByteIsMasked : Obligations.RandomByteIsMasked := by
  intro x kk s
  have hreg : (s.draw.2.setReg x (s.draw.1 &&& kk)).reg x = Config.randomByte s.draws &&& kk :=
    State.reg_setReg_self _ x _
  refine ⟨_, rfl, fun k _ => ?_, fun hkk => ?_, rfl, fun r hr => ?_, fun _ => rfl, rfl⟩
  · rw [hreg, BitVec.getLsbD_and]
  · rw [hreg, hkk]
    exact BitVec.and_allOnes
  · exact onlyDestinationRegistersChange (.rnd x kk) s _ r rfl hr

end Sys2Proof.Machine
end

section
/-! PROOFS of the statements of spec/43_index_memory.md: what `I` becomes, and the registers stored to memory and loaded
from it. -/

namespace Sys2Proof.Machine

/-! ### `I` alone (R191 to R193) -/

theorem OnlyI.setI (s : State) (w : Word) : OnlyI s (s.setI w) :=
  ⟨fun _ _ => rfl, fun _ => rfl, rfl⟩

/-- No glyph address of a byte, at most `0x50 + 5 * 255`, wraps (R193). -/
theorem toNat_glyphAddress (b : Byte) : (glyphAddress b).toNat = 0x50 + 5 * b.toNat := by
  have := b.isLt
  exact Nat.mod_eq_of_lt (by simp only [Config.fontBase, Config.glyphLen]; omega)

/-- Settles O30: each of the three is `setI`, of `NNN`, of the 16-bit sum and of the glyph's address. -/
theorem indexRegisterLoads : Obligations.IndexRegisterLoads := by
  refine fun nnn x s => ⟨⟨_, rfl, toNat_zextAddr nnn, .setI s _⟩, ⟨_, rfl, ?_, .setI s _⟩,
    ⟨_, rfl, toNat_glyphAddress (s.reg x), .setI s _⟩⟩
  rw [State.setI_i, BitVec.toNat_add, toNat_zextByte]

/-! ### The registers up to `X` (R195 to R197) -/

/-- After a transfer that fits in memory `I` has not wrapped (R197). -/
theorem State.toNat_advanceI {x : Reg} {s : State} (hfits : s.i.toNat + x.val + 1 ≤ 4096) :
    (s.advanceI x).toNat = s.i.toNat + x.val + 1 := by
  rw [State.advanceI, BitVec.toNat_add, BitVec.toNat_ofNat]
  omega

/-- Settles O32: the bytes stored are the registers up to `X`, so the store reaches `X + 1` bytes from `I` on. -/
theorem registersAreStored : Obligations.RegistersAreStored := by
  intro x s hmem hfits
  have hexec := exec_storeRegs_in_range hfits
  refine ⟨_, hexec, fun r hr => readByte_of_exec_storeRegs hmem hfits hexec hr, State.toNat_advanceI hfits,
    fun k hk => ?_, fun _ _ => rfl, rfl⟩
  rw [← s.length_regsUpTo x] at hk
  exact State.readByte_storeBytes_of_outside hmem hk

/-- Settles O33: the bytes read are as many as the registers up to `X`, which are the destinations of `FX65`. -/
theorem registersAreLoaded : Obligations.RegistersAreLoaded := by
  intro x s hfits
  have hexec := exec_loadRegs_in_range hfits
  refine ⟨_, hexec, fun r hr => ?_, fun r hr => ?_, State.toNat_advanceI hfits, fun _ => rfl, rfl⟩
  · exact s.reg_setRegsFrom_readBytes s.base (Nat.lt_succ_of_le hr)
  · exact onlyDestinationRegistersChange (.loadRegs x) s _ r hexec (by simpa [destRegs] using hr)

end Sys2Proof.Machine
end

section
/-! PROOFS of the statements of spec/44_display.md: the clear display, the sprite that is XORed in, and the sprite drawn
twice. -/

namespace Sys2Proof.Machine

/-! ### `00E0` (R212) -/

/-- Settles O36: the new display is `blankDisplay`, whatever the old one held. -/
theorem clearTurnsEveryCellOff : Obligations.ClearTurnsEveryCellOff :=
  ⟨hasWord_of_toNat_encode rfl rfl,
    fun _ => ⟨_, rfl, cellAt_clear, rfl, fun _ _ => rfl, fun _ => rfl, rfl⟩⟩

/-! ### `DXYN` in range (R213, R214) -/

/-- The canvas that `DXYN` leaves when its sprite is in range: the display with the sprite drawn, and the collision. -/
def State.spriteCanvas (s : State) (x y : Reg) (n : Nat) : Canvas :=
  drawRows (s.reg x).toNat (s.reg y).toNat (s.readBytes s.base n) ⟨s.disp, false⟩

theorem exec_drw_in_range {x y : Reg} {n : Nat} {s : State} (hfits : n = 0 ∨ s.i.toNat + n ≤ 4096) :
    exec (.drw x y n) s =
      .next ((s.showDisplay (s.spriteCanvas x y n).disp).setFlag (s.spriteCanvas x y n).collision) := by
  have hrange : rangeFault s.base n = none := rangeFault_eq_none.2 hfits
  rw [exec, execDrw, State.checkRange, hrange]
  rfl

/-- A set sprite bit lands on a cell by its offsets from the sprite's origin: fewer than 32 rows and 64 columns do not
overlap themselves, so at most one row and one column land there. -/
theorem spriteHits_iff_spriteCovers {s : State} {x y : Reg} {n : Nat} (hn : n ≤ 32) (cy : Fin 32) (cx : Fin 64) :
    SpriteHits s x y n cy cx ↔
      spriteCovers (s.reg x).toNat (s.reg y).toNat (s.readBytes s.base n) cy cx = true := by
  have hrow (row : Nat) (h : row < n) := eq_wrapRow_iff (s.reg y).toNat row cy (by omega)
  have hcol (col : Nat) (h : col < 8) := eq_wrapCol_iff (s.reg x).toNat col cx (by omega)
  have hbyte (row : Nat) (h : row < n) : (s.readBytes s.base n).getD row 0 = s.readByte (s.i.toNat + row) := by
    rw [List.getD_eq_getElem _ _ (by rwa [State.length_readBytes]), State.getElem_readBytes, State.base]
  simp only [spriteCovers, Bool.and_eq_true, decide_eq_true_eq, State.length_readBytes]
  constructor
  · rintro ⟨row, hr, col, hc, hbit, hy, hx⟩
    obtain rfl := (hrow row hr).1 (Fin.ext hy)
    obtain rfl := (hcol col hc).1 (Fin.ext hx)
    exact ⟨⟨hr, hc⟩, by rwa [hbyte _ hr]⟩
  · rintro ⟨⟨hr, hc⟩, hbit⟩
    rw [hbyte _ hr] at hbit
    exact ⟨_, hr, _, hc, hbit, congrArg Fin.val ((hrow _ hr).2 rfl), congrArg Fin.val ((hcol _ hc).2 rfl)⟩

theorem cellAt_spriteCanvas {s : State} {x y : Reg} {n : Nat} (hn : n ≤ 32) (cy : Fin 32) (cx : Fin 64) :
    cellAt (s.spriteCanvas x y n).disp cy cx = true ↔
      ¬ (cellAt s.disp cy cx = true ↔ SpriteHits s x y n cy cx) := by
  rw [State.spriteCanvas, cellAt_drawRows _ _ _ _ (by rwa [State.length_readBytes]), spriteHits_iff_spriteCovers hn,
    Bool.xor_iff_ne, ne_eq, Bool.eq_iff_iff]

/-- No cell is toggled twice, so a lit cell that the sprite toggled is dark at the end. -/
theorem collision_spriteCanvas {s : State} {x y : Reg} {n : Nat} (hn : n ≤ 32) :
    (s.spriteCanvas x y n).collision = true ↔
      ∃ cy cx, cellAt s.disp cy cx = true ∧ cellAt (s.spriteCanvas x y n).disp cy cx = false := by
  have hlen : (s.readBytes s.base n).length ≤ 32 := by rwa [State.length_readBytes]
  simp only [State.spriteCanvas, collision_drawRows _ _ _ _ hlen, cellAt_drawRows _ _ _ _ hlen, Bool.false_eq_true,
    false_or]
  refine exists_congr fun cy => exists_congr fun cx => and_congr_right fun hlit => ?_
  rw [hlit, Bool.true_xor, Bool.not_eq_false']

/-- Settles O37: the display and the flag are those of `State.spriteCanvas`. -/
theorem drawXorsTheSprite : Obligations.DrawXorsTheSprite := by
  intro x y n s hwf hfits
  have hn : n ≤ 32 := by
    have : n < 16 := of_decide_eq_true hwf
    omega
  have hexec := exec_drw_in_range (x := x) (y := y) hfits
  refine ⟨_, hexec, cellAt_spriteCanvas hn, fun hdark => ?_, fun hlit => ?_, rfl,
    fun r => onlyDestinationRegistersChange (.drw x y n) s _ r hexec, fun _ => rfl, rfl⟩
  · rw [State.reg_setFlag, if_pos rfl, (collision_spriteCanvas hn).2 hdark, flagByte, if_pos rfl]
  · have hcol : ¬ (s.spriteCanvas x y n).collision = true := by
      rw [collision_spriteCanvas hn]
      rintro ⟨cy, cx, hs, ht⟩
      exact Bool.false_ne_true (ht.symm.trans (hlit cy cx hs))
    rw [State.reg_setFlag, if_pos rfl, flagByte, if_neg hcol]

/-! ### `DXYN` twice (R215) -/

/-- Where a sprite lands depends on its bytes, on `I` and on the two coordinates alone. -/
theorem spriteHits_congr {s b : State} {x y : Reg} {n : Nat} (hi : b.i = s.i) (hx : b.reg x = s.reg x)
    (hy : b.reg y = s.reg y)
    (hbytes : ∀ row, row < n → b.readByte (s.i.toNat + row) = s.readByte (s.i.toNat + row))
    (cy : Fin 32) (cx : Fin 64) : SpriteHits b x y n cy cx ↔ SpriteHits s x y n cy cx := by
  rw [SpriteHits, SpriteHits, hi, hx, hy]
  refine exists_congr fun row => and_congr_right fun hrow => ?_
  rw [hbytes row hrow]

/-- Settles O38, by O37 for both draws: the second toggles the same cells, and those it turns off are those that the first
turned on. -/
theorem drawingTwiceRestoresTheDisplay : Obligations.DrawingTwiceRestoresTheDisplay := by
  intro x y n s a b hwf hfits ha hdisp hi hx hy hbytes
  obtain ⟨a', ha', hfirst, -⟩ := drawXorsTheSprite x y n s hwf hfits
  obtain rfl : a' = a := Host.Outcome.next.inj (ha'.symm.trans ha)
  obtain ⟨t, ht, hsecond, hflagOn, hflagOff, -⟩ := drawXorsTheSprite x y n b hwf (hi ▸ hfits)
  have hrestored : t.disp = s.disp := display_ext fun cy cx => by
    rw [Bool.eq_iff_iff, hsecond, hdisp, hfirst, spriteHits_congr hi hx hy hbytes]
    tauto
  rw [hdisp, hrestored] at hflagOn hflagOff
  refine ⟨t, ht, hrestored, fun hone => ?_, fun ⟨cy, cx, hdark, hlit⟩ => hflagOn ⟨cy, cx, hlit, hdark⟩⟩
  by_contra hnone
  have hzero : t.reg 15 = 0 := hflagOff fun cy cx hlit => by
    by_contra hdark
    exact hnone ⟨cy, cx, Bool.eq_false_of_not_eq_true hdark, hlit⟩
  exact absurd (hone.symm.trans hzero) (by decide)

end Sys2Proof.Machine
end

section
/-! PROOFS of the statements of spec/45_keys_timers.md: the wait for a key, and the moves between `VX` and the timers. -/

namespace Sys2Proof.Machine

/-! ### `FX0A` (R233, R234) -/

/-- Every key number fits in a byte. -/
theorem toNat_keyByte (k : Fin Config.nkeys) : (BitVec.ofNat 8 k.val).toNat = k.val :=
  Nat.mod_eq_of_lt (Nat.lt_trans (key_lt k) (by decide))

/-- Settles O41, by the two cases of `execLdVxK_cases`: the key taken is the least one pressed, and none is taken only when
none is pressed. -/
theorem keyWaitTakesLowestKeyOrStalls : Obligations.KeyWaitTakesLowestKeyOrStalls := by
  intro x s
  obtain ⟨t, ht⟩ := exec_answers_next (.ldVxK x) s
  refine ⟨t, ht, fun k hk hleast => ?_, fun hup => ?_⟩
  · have hfirst : s.firstPressed = some k := State.firstPressed_eq_some.2 ⟨hk, hleast⟩
    rcases execLdVxK_cases ht with ⟨j, hj, rfl⟩ | ⟨hnone, -⟩
    · obtain rfl : j = k := Option.some.inj (hj.symm.trans hfirst)
      exact ⟨by rw [State.reg_setReg_self, toNat_keyByte], onlyRegs_destRegs ht rfl⟩
    · exact absurd (hfirst.symm.trans hnone) (Option.some_ne_none k)
  · have hnone : s.firstPressed = none := State.firstPressed_eq_none.2 hup
    rcases execLdVxK_cases ht with ⟨j, hj, -⟩ | ⟨-, rfl⟩
    · exact absurd (hj.symm.trans hnone) (Option.some_ne_none j)
    · exact ⟨rfl, .setPc s _⟩

/-! ### `FX07`, `FX15`, `FX18` (R235 to R237) -/

/-- Settles O42: the first is `setReg` of `DT`, the other two are `setDT` and `setST` of `VX`. -/
theorem timerRegistersMove : Obligations.TimerRegistersMove := by
  refine fun x s => ⟨?_, ?_, ?_⟩
  · exact ⟨_, rfl, s.reg_setReg_self x s.dt, onlyRegs_destRegs (i := .ldVxDt x) rfl rfl⟩
  · exact ⟨_, rfl, s.setDT_dt _, fun _ _ => rfl, fun _ => rfl, rfl⟩
  · exact ⟨_, rfl, s.setST_st _, fun _ _ => rfl, fun _ => rfl, rfl⟩

end Sys2Proof.Machine
end

section
/-! PROOFS of the statements of spec/47_scheduler.md: the burst of due cycles, the start of the loop and of an iteration,
the time-free view, and the ports of the host. -/

namespace Sys2Proof.Machine

/-! ### The burst of due cycles (R257, R262) -/

/-- A run of one step more is a step and the run from there. -/
theorem run_succ_eq_next (M : Host.Core) {k : Nat} {s t : M.State} :
    M.run (k + 1) s = .next t ↔ ∃ u, M.step s = .next u ∧ M.run k u = .next t := by
  rw [Host.Core.run]
  cases M.step s <;> simp

theorem core_run_succ_eq_next {k : Nat} {s t : State} :
    core.run (k + 1) s = .next t ↔ ∃ u, step s = .next u ∧ core.run k u = .next t :=
  run_succ_eq_next core

/-- A step in step 2 of an iteration with a cycle due is that cycle. -/
theorem dueCycle_of_step {s t : State} (hp : s.phase = .cycles) (hdue : s.instrDue = true) (h : step s = .next t) :
    ∃ u, instructionCycle s = .next u ∧ t = u.afterDue := by
  obtain ⟨hrun, -⟩ := step_cases h
  exact State.dueCycle_eq_next.1 ((step_of_due hrun hp hdue).symm.trans h)

/-- A due cycle moves its own accumulator, by one interval. -/
theorem State.afterDue_lastInstructionTick {s u : State} (h : instructionCycle s = .next u) :
    u.afterDue.lastInstructionTick = s.lastInstructionTick + s.cfg.instrInterval := by
  have hsame := instructionCycle_untouched h
  rw [← hsame.lastInstructionTick, ← hsame.cfg]
  rfl

/-- With `k + 1` cycles due one is due, and `k` are due once it has run. -/
theorem due_of_burst {k : Nat} {s : State}
    (h : s.lastInstructionTick + (k + 1) * s.cfg.instrInterval ≤ s.now) : s.instrDue = true ∧
      ∀ u, instructionCycle s = .next u →
        u.afterDue.lastInstructionTick + k * u.afterDue.cfg.instrInterval ≤ u.afterDue.now := by
  rw [Nat.succ_mul] at h
  refine ⟨State.instrDue_iff.2 (by omega), fun u hu => ?_⟩
  have hcfg : u.afterDue.cfg = s.cfg := (instructionCycle_untouched hu).cfg
  rw [State.afterDue_lastInstructionTick hu, hcfg, State.afterDue_now hu]
  omega

/-- Settles O44, by induction on the number of cycles: each is a cycle that touches nothing of the scheduler, and the
advance of its own accumulator. -/
theorem burstRunsEveryDueCycle : Obligations.BurstRunsEveryDueCycle := by
  intro k
  induction k with
  | zero =>
    intro s t hp _ hrun
    cases hrun
    simp [hp]
  | succ k ih =>
    intro s t hp hdue hrun
    obtain ⟨w, hstep, hrest⟩ := core_run_succ_eq_next.1 hrun
    obtain ⟨hone, hmore⟩ := due_of_burst hdue
    obtain ⟨u, hu, rfl⟩ := dueCycle_of_step hp hone hstep
    have hsame := instructionCycle_untouched hu
    obtain ⟨hphase, hinstr, hnow, hkey, hinq, htimer, hrender, hframes, hcfg⟩ := ih _ t rfl (hmore u hu) hrest
    refine ⟨hphase, ?_, hnow.trans hsame.now, hkey.trans hsame.key, hinq.trans hsame.inq,
      htimer.trans hsame.lastTimerTick, hrender.trans hsame.lastRenderTick, hframes.trans hsame.frames,
      hcfg.trans hsame.cfg⟩
    have hsettings : u.afterDue.cfg = s.cfg := hsame.cfg
    rw [hinstr, State.afterDue_lastInstructionTick hu, hsettings, Nat.succ_mul]
    omega

/-- Settles O45, by induction on the number of cycles: the first due cycle answers, and the burst goes on from a running
state or has reached a faulted one. -/
theorem burstCompletesOrFaults : Obligations.BurstCompletesOrFaults := by
  intro k
  induction k with
  | zero => exact fun s _ _ _ => .inl ⟨s, rfl⟩
  | succ k ih =>
    intro s hrun hp hdue
    obtain ⟨hone, hmore⟩ := due_of_burst hdue
    obtain ⟨u, hu⟩ := instructionCycle_answers_next s
    have hstep : step s = .next u.afterDue :=
      (step_of_due hrun hp hone).trans (State.dueCycle_eq_next.2 ⟨u, hu, rfl⟩)
    rcases (instructionCycle_untouched hu).run with hkept | ⟨c, hfault⟩
    · rcases ih u.afterDue (hkept.trans hrun) rfl (hmore u hu) with ⟨t, ht⟩ | ⟨j, t, c, hj, ht, hfault⟩
      · exact .inl ⟨t, core_run_succ_eq_next.2 ⟨_, hstep, ht⟩⟩
      · exact .inr ⟨j + 1, t, c, Nat.succ_lt_succ hj, core_run_succ_eq_next.2 ⟨_, hstep, ht⟩, hfault⟩
    · have hfirst : core.run 1 s = .next u.afterDue := core_run_succ_eq_next.2 ⟨_, hstep, rfl⟩
      cases k with
      | zero => exact .inl ⟨_, hfirst⟩
      | succ k => exact .inr ⟨1, _, c, by omega, hfirst, hfault⟩

/-! ### The start of an iteration (R253 to R256) -/

theorem ClockMoved.inq {s r : State} (h : ClockMoved s r) : r.inq = s.inq := by
  obtain ⟨n, cf, a, b, c, p, rfl⟩ := h
  rfl

theorem ClockMoved.key {s r : State} (h : ClockMoved s r) : r.key = s.key := by
  obtain ⟨n, cf, a, b, c, p, rfl⟩ := h
  rfl

/-- An iteration with an event at the head delivers it and reads the clock (R256). -/
theorem step_of_event {s s₀ : State} {e : InputEvent} {rest : List InputEvent} (hs : IterationStart s s₀)
    (hq : s.inq = e :: rest) : step s = .next { s₀ with
      inq := rest, key := applyEvent e s.key, now := s₀.iterationReading, clockFeed := s₀.clockFeed.tail
      phase := .cycles } := by
  rw [step_of_iterationStart hs, State.startIteration, hs.clockMoved.inq.trans hq, ← hs.clockMoved.key]
  exact congrArg Host.Outcome.next (State.readNow_eq _)

/-- An iteration with the feed empty and closed stops (R256). -/
theorem step_of_closed {s s₀ : State} (hs : IterationStart s s₀) (hq : s.inq = []) (hclosed : s.inqClosed = true) :
    step s = .next { s₀ with run := .stopped } := by
  rw [step_of_iterationStart hs, State.startIteration, hs.clockMoved.inq.trans hq,
    if_pos (hs.clockMoved.kept.inqClosed.trans hclosed)]

/-- An iteration with the feed empty and open reads the clock and runs the first due cycle, if one is due (R257). -/
theorem step_of_open {s s₀ : State} (hs : IterationStart s s₀) (hq : s.inq = []) (hopen : s.inqClosed = false) :
    step s = if s₀.readNow.instrDue then s₀.readNow.dueCycle else .next s₀.readNow := by
  rw [step_of_iterationStart hs, State.startIteration, hs.clockMoved.inq.trans hq,
    hs.clockMoved.kept.inqClosed.trans hopen]
  rfl

/-- Settles O47: the three outcomes of step 1, and what each event does to the keys. -/
theorem iterationTakesOneEventStopsOrGoesOn : Obligations.IterationTakesOneEventStopsOrGoesOn := by
  refine ⟨fun s s₀ k rest hs hq => ?_, fun s s₀ k rest hs hq => ?_, fun s s₀ => step_of_closed,
    fun s s₀ r hs hq hopen hr => ?_⟩
  · exact ⟨_, step_of_event hs hq, rfl, applyEvent_press k s.key, rfl⟩
  · exact ⟨_, step_of_event hs hq, rfl, applyEvent_release k s.key, rfl⟩
  · obtain rfl : r = s₀.readNow := hr.trans s₀.readNow_eq.symm
    rw [step_of_open hs hq hopen]
    refine ⟨fun hearly => if_neg ?_, fun hdue => ?_⟩
    · simp [State.instrDue_eq_false_iff.2 hearly]
    · obtain ⟨u, hu⟩ := instructionCycle_answers_next s₀.readNow
      refine ⟨u, hu, ?_⟩
      rw [if_pos (State.instrDue_iff.2 hdue), State.dueCycle_eq_next.2 ⟨u, hu, rfl⟩,
        ← State.afterDue_lastInstructionTick hu]
      rfl

/-! ### The start of the loop (R255, R332) -/

theorem IterationOver.phase_ne_boot {s : State} (h : IterationOver s) : s.phase ≠ .boot := by
  obtain ⟨-, -, hp | ⟨hp, -⟩⟩ := h <;> simp [hp]

/-- Before the loop has started, step 1 of the iteration sees the accumulators at the one reading. -/
theorem IterationStart.of_boot {s s₀ : State} (h : IterationStart s s₀) (hboot : s.phase = .boot) {t₀ : Nat}
    {feed : List Nat} (hfeed : s.clockFeed = t₀ :: feed) (hle : s.now ≤ t₀) :
    s₀.lastInstructionTick = t₀ ∧ s₀.lastRenderTick = t₀ ∧ s₀.lastTimerTick = t₀ := by
  obtain ⟨-, -, -, t, rfl, rfl⟩ := h.resolve_right fun ⟨hover, _⟩ => hover.phase_ne_boot hboot
  simp [hfeed, hle]

/-- Settles O49, by the cases of a step that starts an iteration; those of a started loop do not arise in `boot`. -/
theorem loopStartsFromOneReading : Obligations.LoopStartsFromOneReading := by
  refine ⟨fun s hrun hboot => ⟨step_of_not_loaded hrun hboot, fun hl => ?_⟩,
    fun s t t₀ feed _ hboot hfeed hle hstep => ?_⟩
  · exact runningCoreAlwaysSteps s hrun fun _ => hl
  · obtain ⟨-, hcase⟩ := step_cases hstep
    cases hcase with
    | cycle u hp => simp [hboot] at hp
    | frame hp => simp [hboot] at hp
    | tick hp => simp [hboot] at hp
    | deliver s₀ e rest hs _ ht =>
      subst ht
      obtain ⟨hinstr, hrender, htimer⟩ := hs.of_boot hboot hfeed hle
      rw [State.readNow_eq]
      exact ⟨hrender, htimer, .inl hinstr⟩
    | stop s₀ hs _ _ ht =>
      subst ht
      obtain ⟨hinstr, hrender, htimer⟩ := hs.of_boot hboot hfeed hle
      exact ⟨hrender, htimer, .inl hinstr⟩
    | idle s₀ hs _ _ _ ht =>
      subst ht
      obtain ⟨hinstr, hrender, htimer⟩ := hs.of_boot hboot hfeed hle
      rw [State.readNow_eq]
      exact ⟨hrender, htimer, .inl hinstr⟩
    | start s₀ u hs _ _ hdue hu ht =>
      subst ht
      obtain ⟨hinstr, hrender, htimer⟩ := hs.of_boot hboot hfeed hle
      have hsame := instructionCycle_untouched hu
      have hadvanced := State.afterDue_lastInstructionTick hu
      have hreached := State.instrDue_iff.1 hdue
      rw [← State.afterDue_now hu] at hreached
      rw [State.readNow_eq] at hsame hadvanced hreached
      dsimp only at hadvanced hreached
      rw [hinstr, hs.clockMoved.kept.cfg] at hadvanced hreached
      exact ⟨hsame.lastRenderTick.trans hrender, hsame.lastTimerTick.trans htimer, .inr ⟨hadvanced, hreached⟩⟩

/-! ### The catch-up (R261) -/

/-- When an iteration is over, no cycle is due: by its own reading in step 2, by the invariant in step 4. -/
theorem SchedInv.instrDue_of_iterationOver {s : State} (h : SchedInv s) (hover : IterationOver s) :
    s.instrDue = false := by
  obtain ⟨-, -, hp | ⟨-, hcycles, -⟩⟩ := hover
  · exact h.instrDue_of_ticks hp
  · exact hcycles

/-- Settles O51: the invariant holds of every reachable state, and nothing is due when an iteration is over. -/
theorem reachableIterationsEndCaughtUp : Obligations.ReachableIterationsEndCaughtUp := by
  intro s hs hover
  obtain ⟨-, hinv⟩ := reachableStatesKeepInvariants s hs
  have hcycles := State.instrDue_eq_false_iff.1 (hinv.instrDue_of_iterationOver hover)
  obtain ⟨-, -, hinstr, -, htimer, -⟩ := hinv
  obtain ⟨-, hticks, -⟩ := hover
  have hticks : ¬ s.lastTimerTick + s.cfg.timerInterval ≤ s.now := by simp [← State.timerDue_iff, hticks]
  exact ⟨hinstr, hcycles, htimer, Nat.lt_of_not_le hticks⟩

/-! ### The ports of the host (R265, R267, R273, R333) -/

theorem State.load_of_fits {s : State} {bytes : List Byte} (hboot : s.phase = .boot) (hfresh : s.loaded = false)
    (hfits : bytes.length ≤ Config.romMax) :
    s.load bytes = .loaded bytes.length { s.storeBytes Config.loadAddr bytes with loaded := true } := by
  rw [State.load, if_pos ⟨hboot, hfresh⟩, if_neg (Nat.not_lt.2 hfits)]

theorem State.load_of_too_large {s : State} {bytes : List Byte} (hboot : s.phase = .boot) (hfresh : s.loaded = false)
    (hlarge : Config.romMax < bytes.length) : s.load bytes = .romTooLarge := by
  rw [State.load, if_pos ⟨hboot, hfresh⟩, if_pos hlarge]

/-- Settles O60, port by port; what LOAD leaves in memory is what `storeBytes` does. -/
theorem hostPortsTakeTheirCalls : Obligations.HostPortsTakeTheirCalls := by
  refine ⟨fun s bytes hboot hfresh hmem => ⟨fun hfits => ?_, State.load_of_too_large hboot hfresh⟩,
    fun s bytes hlate => ?_, fun s a b hboot ha ha' hb hb' => ?_, fun s a b hno => ?_, fun s k hopen => ?_,
    fun s k hclosed => ?_, fun s => rfl⟩
  · exact ⟨_, State.load_of_fits hboot hfresh hfits, fun k hk => s.readByte_storeBytes_add hmem 0x200 hk,
      fun k hk => s.readByte_storeBytes_of_outside hmem hk, rfl⟩
  · have hnot : ¬ (s.phase = .boot ∧ s.loaded = false) := by
      rintro ⟨hboot, hfresh⟩
      simp [hboot, hfresh] at hlate
    rw [State.load, if_neg hnot]
  · rw [State.configure, if_pos ⟨hboot, ⟨ha, ha'⟩, hb, hb'⟩]
  · have hnot : ¬ (s.phase = .boot ∧ a.positive ∧ b.positive) := by
      rintro ⟨hboot, ⟨ha, ha'⟩, hb, hb'⟩
      simp [hboot, ha.ne', ha'.ne', hb.ne', hb'.ne'] at hno
    rw [State.configure, if_neg hnot]
  · simp [State.hostPress, State.hostRelease, hopen]
  · simp [State.hostPress, State.hostRelease, hclosed]

end Sys2Proof.Machine
end

section
/-! PROOF that the timed scheduler refines the time-free view (spec/47_scheduler.md R263): what each step is in the
view, and why an advancing clock makes an endless run fair. -/

namespace Sys2Proof.Machine

/-! ### The view does not see the clock -/

theorem ClockMoved.untimed {s r : State} (h : ClockMoved s r) : r.untimed = s.untimed := by
  obtain ⟨n, cf, a, b, c, p, rfl⟩ := h
  rfl

theorem State.untimed_readNow (s : State) : s.readNow.untimed = s.untimed :=
  (ClockMoved.refl s).readNow.untimed

theorem State.untimed_untimed (s : State) : s.untimed.untimed = s.untimed := by
  simp [State.untimed]

/-- `s` with other values of everything that the view forgets; the number of frame signals is the same. -/
def State.withClock (s : State) (a b c n : Nat) (feed : List Nat) (p : Phase) (fr : List Nat) : State :=
  { s with
    lastInstructionTick := a, lastRenderTick := b, lastTimerTick := c, now := n, clockFeed := feed, phase := p
    frames := fr }

theorem State.untimed_withClock {s : State} {a b c n : Nat} {feed : List Nat} {p : Phase} {fr : List Nat}
    (hlen : fr.length = s.frames.length) : (s.withClock a b c n feed p fr).untimed = s.untimed := by
  simp [State.untimed, State.withClock, hlen]

/-- States with the same view differ in what the view forgets only. -/
theorem State.eq_withClock_of_untimed_eq {s r : State} (h : r.untimed = s.untimed) :
    ∃ a b c n feed p fr, fr.length = s.frames.length ∧ r = s.withClock a b c n feed p fr := by
  refine ⟨r.lastInstructionTick, r.lastRenderTick, r.lastTimerTick, r.now, r.clockFeed, r.phase, r.frames, ?_⟩
  cases s
  cases r
  simp_all [State.untimed, State.withClock]

/-- The moves of the view are those of any state with the same view: a cycle reads nothing of the clock (R120). -/
theorem TimeFreeMove.congr {s r v : State} {k : TimeFreeKind} (hview : r.untimed = s.untimed)
    (h : TimeFreeMove s k v) : TimeFreeMove r k v := by
  obtain ⟨a, b, c, n, feed, p, fr, hlen, rfl⟩ := State.eq_withClock_of_untimed_eq hview
  cases h with
  | @cycle t hrun hcycle =>
    have hsame := instructionCycle_untouched hcycle
    have hcycle' := instructionCycle_withSchedulerOf (s.withClock a b c n feed p fr) hcycle
    have hview' : (t.withSchedulerOf (s.withClock a b c n feed p fr)).untimed = t.untimed := by
      simp [State.untimed, State.withSchedulerOf, State.withClock, hlen, hsame.inq, hsame.inqClosed, hsame.frames,
        hsame.loaded]
    exact hview' ▸ .cycle hrun hcycle'
  | tick hrun =>
    have hview' : (s.withClock a b c n feed p fr).timerTick.untimed = s.timerTick.untimed :=
      State.untimed_withClock (s := s.timerTick) hlen
    exact hview' ▸ .tick hrun
  | @deliver e rest hrun hq =>
    have hview' := State.untimed_withClock (s := { s with key := applyEvent e s.key, inq := rest })
      (a := a) (b := b) (c := c) (n := n) (feed := feed) (p := p) hlen
    exact hview' ▸ .deliver (s := s.withClock a b c n feed p fr) hrun hq
  | frame hrun hdraw =>
    have hview' := State.untimed_withClock (s := { s with frames := s.frames ++ [0], drawPending := false })
      (a := a) (b := b) (c := c) (n := n) (feed := feed) (p := p) (fr := fr ++ [0]) (by simp [hlen])
    exact hview' ▸ .frame (s := s.withClock a b c n feed p fr) hrun hdraw
  | stop hrun hq hclosed =>
    have hview' := State.untimed_withClock (s := { s with run := .stopped })
      (a := a) (b := b) (c := c) (n := n) (feed := feed) (p := p) hlen
    exact hview' ▸ .stop (s := s.withClock a b c n feed p fr) hrun hq hclosed

theorem TimeFreeMove.untimed {s v : State} {k : TimeFreeKind} (h : TimeFreeMove s k v) :
    TimeFreeMove s.untimed k v :=
  h.congr s.untimed_untimed

theorem TimeFreeMove.running {s v : State} {k : TimeFreeKind} (h : TimeFreeMove s k v) : s.run = .running := by
  cases h <;> assumption

/-- A delivery or a stop is possible only with an event queued or the feed closed. -/
theorem TimeFreeMove.feed {s v : State} {k : TimeFreeKind} (h : TimeFreeMove s k v)
    (hk : k ∈ [TimeFreeKind.deliver, .stop]) : s.inq ≠ [] ∨ s.inqClosed = true := by
  cases h with
  | deliver _ hq => exact .inl (by simp [hq])
  | stop _ _ hclosed => exact .inr hclosed
  | cycle | tick | frame => simp at hk

/-- The host's moves are seen in the view, but for the clock's. -/
theorem HostMove.untimed {s t : State} (h : HostMove s t) : t.untimed = s.untimed ∨ HostMove s.untimed t.untimed := by
  cases h with
  | press k =>
    have hview : (s.hostPress k).untimed = s.untimed.hostPress k := by
      unfold State.hostPress
      exact apply_ite State.untimed _ _ _
    exact .inr (hview ▸ .press k)
  | release k =>
    have hview : (s.hostRelease k).untimed = s.untimed.hostRelease k := by
      unfold State.hostRelease
      exact apply_ite State.untimed _ _ _
    exact .inr (hview ▸ .release k)
  | close => exact .inr .close
  | clock n => exact .inl rfl

/-! ### What a step is in the view -/

theorem IterationOver.instrDue_of_cycles {s : State} (h : IterationOver s) (hp : s.phase = .cycles) :
    s.instrDue = false := by
  obtain ⟨-, -, hp' | ⟨-, hcycles, -⟩⟩ := h
  · simp [hp] at hp'
  · exact hcycles

/-- A step that starts an iteration finds no cycle due in step 2. -/
theorem IterationStart.instrDue_of_cycles {s s₀ : State} (h : IterationStart s s₀) (hp : s.phase = .cycles) :
    s.instrDue = false := by
  rcases h with ⟨-, hboot, -⟩ | ⟨hover, -⟩
  · simp [hp] at hboot
  · exact hover.instrDue_of_cycles hp

/-- Once the loop has started, step 1 of an iteration sees the state before the step. -/
theorem IterationStart.eq_of_ne_boot {s s₀ : State} (h : IterationStart s s₀) (hp : s.phase ≠ .boot) : s₀ = s :=
  h.elim (fun ⟨_, hboot, _⟩ => absurd hboot hp) fun ⟨_, heq⟩ => heq

theorem IterationStart.phase_ne_boot {s s₀ : State} (h : IterationStart s s₀) : s₀.phase ≠ .boot := by
  rcases h with ⟨-, -, -, t₀, -, rfl⟩ | ⟨hover, rfl⟩
  · nofun
  · exact hover.phase_ne_boot

/-- What the view and the fairness of a run need to know of a step from `s` to `t`: the move `k` that it is, if it is one
(R263), and what only a step of that kind does. -/
structure StepMove (s t : State) (k : Option TimeFreeKind) : Prop where
  step : step s = .next t
  move : ∀ j, k = some j → TimeFreeMove s j t.untimed
  kept : k = none → t.untimed = s.untimed
  /-- only a cycle advances the accumulator of cycles once the loop has started -/
  instr : s.phase ≠ .boot → k ≠ some .cycle → t.lastInstructionTick = s.lastInstructionTick
  /-- only a tick advances the accumulator of ticks once the loop has started -/
  timer : s.phase ≠ .boot → k ≠ some .tick → t.lastTimerTick = s.lastTimerTick
  /-- a due cycle is what the step is -/
  due : s.phase = .cycles → s.instrDue = true → k = some .cycle
  /-- a new iteration takes the event or the closure that it finds -/
  feed : IterationOver s → s.inq ≠ [] ∨ s.inqClosed = true → k = some .deliver ∨ k = some .stop

/-- A step that starts an iteration is in the view what the iteration does from the state that its step 1 sees. -/
theorem IterationStart.stepMove {s s₀ t : State} {k : Option TimeFreeKind} (hs : IterationStart s s₀)
    (hstep : Machine.step s = .next t) (hmove : ∀ j, k = some j → TimeFreeMove s₀ j t.untimed)
    (hkept : k = none → t.untimed = s₀.untimed)
    (hinstr : k ≠ some .cycle → t.lastInstructionTick = s₀.lastInstructionTick)
    (htimer : t.lastTimerTick = s₀.lastTimerTick)
    (hfeed : s₀.inq ≠ [] ∨ s₀.inqClosed = true → k = some .deliver ∨ k = some .stop) : StepMove s t k where
  step := hstep
  move j hj := (hmove j hj).congr hs.clockMoved.untimed.symm
  kept hk := (hkept hk).trans hs.clockMoved.untimed
  instr hp hk := (hinstr hk).trans (by rw [hs.eq_of_ne_boot hp])
  timer hp _ := htimer.trans (by rw [hs.eq_of_ne_boot hp])
  due hp hcycle := by simp [hs.instrDue_of_cycles hp] at hcycle
  feed _ hwaiting := hfeed (by rwa [hs.clockMoved.inq, hs.clockMoved.kept.inqClosed])

/-- Every step is a move of the view or has changed nothing but the clock. -/
theorem exists_stepMove {s t : State} (h : step s = .next t) : ∃ k, StepMove s t k := by
  obtain ⟨hrun, hcase⟩ := step_cases h
  cases hcase with
  | cycle u hp hdue hu ht =>
    subst ht
    exact ⟨some .cycle, {
      step := h
      move := by rintro _ ⟨⟩; exact .cycle (t := u) hrun hu
      kept := nofun
      instr := fun _ hk => absurd rfl hk
      timer := fun _ _ => (instructionCycle_untouched hu).lastTimerTick
      due := fun _ _ => rfl
      feed := fun hover => by simp [hover.instrDue_of_cycles hp] at hdue }⟩
  | frame hp hcycles hdue ht =>
    subst ht
    have hview : s.signalFrame.untimed = ({ s with frames := s.frames ++ [0], drawPending := false } : State).untimed := by
      simp [State.signalFrame, State.untimed]
    exact ⟨some .frame, {
      step := h
      move := by rintro _ ⟨⟩; exact hview ▸ .frame hrun (State.frameDue_iff.1 hdue).1
      kept := nofun
      instr := fun _ _ => rfl
      timer := fun _ _ => rfl
      due := fun _ hcycle => by simp [hcycle] at hcycles
      feed := fun ⟨_, _, hplace⟩ => by simp [hp, hdue] at hplace }⟩
  | tick hplace hdue ht =>
    subst ht
    exact ⟨some .tick, {
      step := h
      move := by rintro _ ⟨⟩; exact .tick hrun
      kept := nofun
      instr := fun _ _ => rfl
      timer := fun _ hk => absurd rfl hk
      due := fun hp hcycle => by simp [hp, hcycle] at hplace
      feed := fun ⟨_, hticks, _⟩ => by simp [hdue] at hticks }⟩
  | deliver s₀ e rest hs hq ht =>
    subst ht
    refine ⟨some .deliver, hs.stepMove h ?_ nofun (fun _ => ?_) ?_ fun _ => .inl rfl⟩
    · rintro _ ⟨⟩
      rw [State.untimed_readNow]
      exact .deliver (hs.clockMoved.run.trans hrun) hq
    · rw [State.readNow_eq]
    · rw [State.readNow_eq]
  | stop s₀ hs hq hclosed ht =>
    subst ht
    refine ⟨some .stop, hs.stepMove h ?_ nofun (fun _ => rfl) rfl fun _ => .inr rfl⟩
    rintro _ ⟨⟩
    exact .stop (hs.clockMoved.run.trans hrun) hq hclosed
  | start s₀ u hs hq hopen hdue hu ht =>
    subst ht
    have htimer := (instructionCycle_untouched hu).lastTimerTick
    have hcycle : TimeFreeMove s₀.readNow .cycle u.untimed := .cycle (hs.clockMoved.readNow.run.trans hrun) hu
    refine ⟨some .cycle, hs.stepMove h ?_ nofun (fun hk => absurd rfl hk) ?_ fun hfeed => by simp [hq, hopen] at hfeed⟩
    · rintro _ ⟨⟩
      exact hcycle.congr s₀.untimed_readNow.symm
    · exact htimer.trans (by rw [State.readNow_eq])
  | idle s₀ hs hq hopen hdue ht =>
    subst ht
    refine ⟨none, hs.stepMove h nofun (fun _ => s₀.untimed_readNow) (fun _ => ?_) ?_ fun hfeed => ?_⟩
    · rw [State.readNow_eq]
    · rw [State.readNow_eq]
    · simp [hq, hopen] at hfeed

/-! ### What a move of a timed run changes -/

/-- A step leaves the loop started. -/
theorem step_phase_ne_boot {s t : State} (h : step s = .next t) : t.phase ≠ .boot := by
  obtain ⟨-, hcase⟩ := step_cases h
  cases hcase with
  | cycle u _ _ _ ht => subst ht; nofun
  | frame _ _ _ ht => subst ht; nofun
  | tick _ _ ht => subst ht; nofun
  | deliver s₀ e rest _ _ ht => subst ht; rw [State.readNow_eq]; nofun
  | stop s₀ hs _ _ ht => subst ht; exact hs.phase_ne_boot
  | start s₀ u _ _ _ _ _ ht => subst ht; nofun
  | idle s₀ _ _ _ _ ht => subst ht; rw [State.readNow_eq]; nofun

/-- The step that ends an iteration leads to step 2 of the next one, unless the core stops. -/
theorem IterationOver.cycles_of_step {s t : State} (hover : IterationOver s) (h : step s = .next t)
    (hrun : t.run = .running) : t.phase = .cycles := by
  rw [step_of_iterationStart (.inr ⟨hover, rfl⟩)] at h
  unfold State.startIteration at h
  split at h
  · cases h
    rw [State.readNow_eq]
  · split at h
    · cases h
      cases hrun
    · split at h
      · obtain ⟨u, -, rfl⟩ := State.dueCycle_eq_next.1 h
        rfl
      · cases h
        rw [State.readNow_eq]

/-- A move of a timed run from `s` to `t` under the label `k`: a step that is `k` in the view, or a move of the host or the
clock, which has none. -/
def LabelledMove (s t : State) (k : Option TimeFreeKind) : Prop := StepMove s t k ∨ HostMove s t ∧ k = none

theorem TimedRun.exists_labels {σ : Nat → State} (h : TimedRun σ) :
    ∃ κ : Nat → Option TimeFreeKind, ∀ n, LabelledMove (σ n) (σ (n + 1)) (κ n) := by
  have hlabel : ∀ n, ∃ k, LabelledMove (σ n) (σ (n + 1)) k := fun n => by
    rcases h n with hstep | hmove
    · obtain ⟨k, hk⟩ := exists_stepMove hstep
      exact ⟨k, .inl hk⟩
    · exact ⟨none, .inr ⟨hmove, rfl⟩⟩
  exact ⟨fun n => (hlabel n).choose, fun n => (hlabel n).choose_spec⟩

section
variable {s t : State} {k : Option TimeFreeKind} (h : LabelledMove s t k)
include h

theorem LabelledMove.cfg : t.cfg = s.cfg := by
  rcases h with hstep | ⟨hmove, -⟩
  · obtain ⟨-, -, hcfg⟩ := step_outputs hstep.step
    exact hcfg
  · obtain ⟨q, c, cf, rfl⟩ := hmove.eq
    rfl

theorem LabelledMove.run_of_run (hrun : t.run = .running) : s.run = .running := by
  rcases h with hstep | ⟨hmove, -⟩
  · exact (step_cases hstep.step).1
  · obtain ⟨q, c, cf, rfl⟩ := hmove.eq
    exact hrun

theorem LabelledMove.phase_ne_boot (hp : s.phase ≠ .boot) : t.phase ≠ .boot := by
  rcases h with hstep | ⟨hmove, -⟩
  · exact step_phase_ne_boot hstep.step
  · obtain ⟨q, c, cf, rfl⟩ := hmove.eq
    exact hp

theorem LabelledMove.now_le : s.now ≤ t.now := by
  rcases h with hstep | ⟨hmove, -⟩
  · exact (clockNeverGoesBack s t hstep.step).1
  · obtain ⟨q, c, cf, rfl⟩ := hmove.eq
    exact le_rfl

/-- Only a step moves the reading. -/
theorem LabelledMove.stepMove_of_now_lt (hlt : s.now < t.now) : StepMove s t k := by
  rcases h with hstep | ⟨hmove, -⟩
  · exact hstep
  · obtain ⟨q, c, cf, rfl⟩ := hmove.eq
    exact absurd hlt (lt_irrefl _)

theorem LabelledMove.cycleDeadline (hp : s.phase ≠ .boot) (hk : k ≠ some .cycle) :
    t.lastInstructionTick + t.cfg.instrInterval = s.lastInstructionTick + s.cfg.instrInterval := by
  rw [h.cfg]
  rcases h with hstep | ⟨hmove, -⟩
  · rw [hstep.instr hp hk]
  · obtain ⟨q, c, cf, rfl⟩ := hmove.eq
    rfl

theorem LabelledMove.tickDeadline (hp : s.phase ≠ .boot) (hk : k ≠ some .tick) :
    t.lastTimerTick + t.cfg.timerInterval = s.lastTimerTick + s.cfg.timerInterval := by
  rw [h.cfg]
  rcases h with hstep | ⟨hmove, -⟩
  · rw [hstep.timer hp hk]
  · obtain ⟨q, c, cf, rfl⟩ := hmove.eq
    rfl

/-- A due cycle stays due until it runs. -/
theorem LabelledMove.due (hdue : s.phase = .cycles ∧ s.instrDue = true) (hk : k ≠ some .cycle) :
    t.phase = .cycles ∧ t.instrDue = true := by
  rcases h with hstep | ⟨hmove, -⟩
  · exact absurd (hstep.due hdue.1 hdue.2) hk
  · obtain ⟨q, c, cf, rfl⟩ := hmove.eq
    exact hdue

/-- A labelled move is that move of the view. -/
theorem LabelledMove.move {j : TimeFreeKind} (hk : k = some j) : TimeFreeMove s.untimed j t.untimed := by
  rcases h with hstep | ⟨-, hnone⟩
  · exact (hstep.move j hk).untimed
  · simp [hk] at hnone

/-- A move without a label is the host's, or one that the view does not see. -/
theorem LabelledMove.kept (hk : k = none) : t.untimed = s.untimed ∨ HostMove s.untimed t.untimed := by
  rcases h with hstep | ⟨hmove, -⟩
  · exact .inl (hstep.kept hk)
  · exact hmove.untimed

end

/-! ### Fairness under an advancing clock -/

/-- A value that no move from `n` on changes is the one at `n`. -/
theorem eq_of_kept_from {f : Nat → Nat} {n : Nat} (h : ∀ m, n ≤ m → f (m + 1) = f m) {m : Nat} (hm : n ≤ m) :
    f m = f n := by
  induction m, hm using Nat.le_induction with
  | base => rfl
  | succ m hm ih => exact (h m hm).trans ih

section
variable {σ : Nat → State} {κ : Nat → Option TimeFreeKind}
  (h : ∀ n, LabelledMove (σ n) (σ (n + 1)) (κ n))
include h

theorem LabelledMove.phase_ne_boot_from {n m : Nat} (hp : (σ n).phase ≠ .boot) (hm : n ≤ m) :
    (σ m).phase ≠ .boot := by
  induction m, hm using Nat.le_induction with
  | base => exact hp
  | succ m _ ih => exact (h m).phase_ne_boot ih

theorem LabelledMove.now_mono : Monotone fun n => (σ n).now :=
  monotone_nat_of_le_succ fun n => (h n).now_le

/-- The core runs as long as it runs later. -/
theorem LabelledMove.running_of_running_from {n : Nat} (hrun : ∀ m, n ≤ m → (σ m).run = .running) (m : Nat) :
    (σ m).run = .running := by
  have hback : ∀ d, (σ (m + d)).run = .running → (σ m).run = .running := by
    intro d
    induction d with
    | zero => exact id
    | succ d ih => exact fun hlater => ih ((h (m + d)).run_of_run hlater)
  exact hback n (hrun _ (Nat.le_add_left n m))

variable (hreach : ∀ r, ∃ n, r ≤ (σ n).now)
include hreach

theorem LabelledMove.exists_now_lt (n : Nat) : ∃ m, n ≤ m ∧ (σ m).now < (σ (m + 1)).now := by
  by_contra hnone
  push Not at hnone
  obtain ⟨m, hm⟩ := hreach ((σ n).now + 1)
  have hsame : (σ (max n m)).now = (σ n).now :=
    eq_of_kept_from (f := fun n => (σ n).now) (fun j hj => le_antisymm (hnone j hj) (h j).now_le) (Nat.le_max_left n m)
  have := now_mono h (Nat.le_max_right n m)
  dsimp only at this
  omega

/-- However far the run and its clock have come, an iteration ends later on. -/
theorem LabelledMove.exists_iterationOver (n r : Nat) :
    ∃ m, n ≤ m ∧ r ≤ (σ m).now ∧ IterationOver (σ m) ∧ StepMove (σ m) (σ (m + 1)) (κ m) := by
  obtain ⟨a, ha, hastep⟩ := exists_now_lt h hreach n
  have hstarted : (σ (a + 1)).phase ≠ .boot := step_phase_ne_boot ((h a).stepMove_of_now_lt hastep).step
  obtain ⟨b, hb⟩ := hreach r
  obtain ⟨m, hm, hlt⟩ := exists_now_lt h hreach (max (a + 1) b)
  have hstep := (h m).stepMove_of_now_lt hlt
  have hnow := (clockNeverGoesBack _ _ hstep.step).2 hlt.ne
  exact ⟨m, by omega, hb.trans (now_mono h (by omega)),
    hnow.resolve_left (phase_ne_boot_from h hstarted (by omega)), hstep⟩

/-- Ticks go on: without one the deadline stays, and an iteration does not end past it. -/
theorem LabelledMove.exists_tick (n : Nat) : ∃ m, n ≤ m ∧ κ m = some .tick := by
  by_contra hnone
  push Not at hnone
  obtain ⟨a, ha, -, hover, -⟩ := exists_iterationOver h hreach n 0
  obtain ⟨m, hm, hpast, ⟨-, hticks, -⟩, -⟩ :=
    exists_iterationOver h hreach a ((σ a).lastTimerTick + (σ a).cfg.timerInterval)
  have hdeadline := eq_of_kept_from (f := fun n => (σ n).lastTimerTick + (σ n).cfg.timerInterval)
    (fun j hj => (h j).tickDeadline (phase_ne_boot_from h hover.phase_ne_boot hj) (hnone j (ha.trans hj))) hm
  have hdue := State.timerDue_iff.2 (hdeadline.trans_le hpast)
  simp [hticks] at hdue

variable (hrun : ∀ m, (σ m).run = .running)
include hrun

/-- Cycles go on: without one the deadline stays, the iteration that starts past it finds a cycle due, and it does not
end before that cycle has run. -/
theorem LabelledMove.exists_cycle (n : Nat) : ∃ m, n ≤ m ∧ κ m = some .cycle := by
  by_contra hnone
  push Not at hnone
  obtain ⟨a, ha, -, hover, -⟩ := exists_iterationOver h hreach n 0
  obtain ⟨b, hb, hpast, hover', hstep⟩ :=
    exists_iterationOver h hreach a ((σ a).lastInstructionTick + (σ a).cfg.instrInterval)
  have hdeadline := eq_of_kept_from (f := fun n => (σ n).lastInstructionTick + (σ n).cfg.instrInterval)
    (fun j hj => (h j).cycleDeadline (phase_ne_boot_from h hover.phase_ne_boot hj) (hnone j (ha.trans hj)))
    (hb.trans b.le_succ)
  have hdue : (σ (b + 1)).phase = .cycles ∧ (σ (b + 1)).instrDue = true :=
    ⟨hover'.cycles_of_step hstep.step (hrun _),
      State.instrDue_iff.2 (hdeadline.trans_le (hpast.trans (h b).now_le))⟩
  obtain ⟨m, hm, -, hover'', -⟩ := exists_iterationOver h hreach (b + 1) 0
  have hstill : (σ m).phase = .cycles ∧ (σ m).instrDue = true := by
    clear hover''
    induction m, hm using Nat.le_induction with
    | base => exact hdue
    | succ m hm ih => exact (h m).due ih (hnone m (by omega))
  obtain ⟨hp, hcycle⟩ := hstill
  simp [hover''.instrDue_of_cycles hp] at hcycle

end

/-- A labelled run is, without its clock, a run of the view. -/
theorem LabelledMove.timeFreeRun {σ : Nat → State} {κ : Nat → Option TimeFreeKind}
    (h : ∀ n, LabelledMove (σ n) (σ (n + 1)) (κ n)) : TimeFreeRun (fun n => (σ n).untimed) κ := by
  intro n
  split
  · exact (h n).move ‹_›
  · exact (h n).kept ‹_›

/-- An endless labelled run whose clock advances is fair (R263): iterations end again and again, each takes what the feed
has, and no deadline is passed without its cycle or tick. -/
theorem LabelledMove.fair {σ : Nat → State} {κ : Nat → Option TimeFreeKind}
    (h : ∀ n, LabelledMove (σ n) (σ (n + 1)) (κ n)) (hclock : ClockAdvances σ) :
    TimeFreeFair (fun n => (σ n).untimed) κ := by
  intro g hg n hpossible
  have hrun := running_of_running_from h (n := n) fun m hm => by
    obtain ⟨k, -, t, hmove⟩ := hpossible m hm
    exact hmove.running
  have hreach := hclock hrun
  simp only [List.mem_cons, List.not_mem_nil, or_false] at hg
  rcases hg with rfl | rfl | rfl
  · obtain ⟨m, hm, hk⟩ := exists_cycle h hreach hrun n
    exact ⟨m, hm, .cycle, by simp, hk⟩
  · obtain ⟨m, hm, hk⟩ := exists_tick h hreach n
    exact ⟨m, hm, .tick, by simp, hk⟩
  · obtain ⟨m, hm, -, hover, hstep⟩ := exists_iterationOver h hreach n 0
    obtain ⟨k, hk, t, hmove⟩ := hpossible m hm
    rcases hstep.feed hover (hmove.feed hk) with hlabel | hlabel
    · exact ⟨m, hm, .deliver, by simp, hlabel⟩
    · exact ⟨m, hm, .stop, by simp, hlabel⟩

/-- Settles O52: the labels of the steps make the run one of the view, and an advancing clock makes it fair. -/
theorem timedRunsAreFairTimeFreeRuns : Obligations.TimedRunsAreFairTimeFreeRuns := by
  refine ⟨fun s t hstep => ?_, fun σ hσ => ?_⟩
  · obtain ⟨k, hk⟩ := exists_stepMove hstep
    cases k with
    | none => exact .inr (hk.kept rfl)
    | some j => exact .inl ⟨j, hk.move j rfl⟩
  · obtain ⟨κ, hκ⟩ := hσ.exists_labels
    exact ⟨κ, LabelledMove.timeFreeRun hκ, LabelledMove.fair hκ⟩

end Sys2Proof.Machine
end

section
/-! PROOF of the statement of spec/70_reset_and_hazards.md about construction and `init()` (R330, R331). -/

namespace Sys2Proof.Machine

/-- Construction is a store over the font's addresses, so what is known of stores applies to it. -/
theorem construct_eq_storeBytes (c : Settings) :
    construct c = ({ State.reset with pc := 0, cfg := c } : State).storeBytes Config.fontBase
      (List.replicate Config.fontLen 0) :=
  rfl

theorem construct_mem_wf (c : Settings) : Memory.wf (construct c).cfg.fontTable (construct c).mem :=
  Memory.wf_writeBytes _ Memory.wf_nil (by simp)

/-- The reset image is what a store of the font over zero memory reads as (R331). -/
theorem resetImage_eq_ite (font : Vector Byte Config.fontLen) (a : Nat) :
    resetImage font a =
      if Config.fontBase ≤ a ∧ a - Config.fontBase < font.toList.length
      then font.toList.getD (a - Config.fontBase) 0 else 0 := by
  rw [resetImage, Vector.length_toList]
  split
  case isTrue h => rw [List.getD_eq_getElem _ _ (by simpa using h.2), Vector.getElem_toList]
  case isFalse => rfl

/-- Every byte of memory is 0 after construction: the stored zeros where the font will stand, the reset image
elsewhere (R330). -/
theorem readByte_construct (c : Settings) (a : Nat) : (construct c).readByte a = 0 := by
  rw [construct_eq_storeBytes, State.readByte_storeBytes _ List.Pairwise.nil]
  split
  case isTrue h => rw [List.getD_eq_getElem _ _ h.2, List.getElem_replicate]
  case isFalse h =>
    have houtside : 0x50 ≤ a → 80 ≤ a - 0x50 := by simpa using h
    exact resetImage_outside _ (by omega)

/-- `init()` after construction makes every byte read as its reset image (R331). -/
theorem readByte_init_construct (c : Settings) (a : Nat) :
    (construct c).init.readByte a = resetImage c.fontTable a := by
  calc (construct c).init.readByte a
    _ = ((construct c).storeBytes Config.fontBase c.fontTable.toList).readByte a := rfl
    _ = resetImage c.fontTable a := by
      rw [State.readByte_storeBytes _ (construct_mem_wf c).1, readByte_construct, resetImage_eq_ite]

/-- A canonical memory that reads as the reset image lists nothing. -/
theorem init_construct_mem (c : Settings) : (construct c).init.mem = [] :=
  Memory.ext (Memory.wf_writeBytes _ (construct_mem_wf c) (by simp)) Memory.wf_nil (readByte_init_construct c)

/-- Settles O59: construction and `init()` set every other field to its value after reset, and leave memory reading as
the reset image. -/
theorem constructThenInitIsReset : Obligations.ConstructThenInitIsReset := by
  refine fun c => ⟨?_, fun a _ => readByte_construct c a⟩
  calc (construct c).init
    _ = { State.reset with cfg := c, mem := (construct c).init.mem } := rfl
    _ = { State.reset with cfg := c } := by rw [init_construct_mem]; rfl

end Sys2Proof.Machine
end
